-- ==== Sys2Proof/Word.lean ====
section
/-! DEFINITION. The plain types: bytes, a sector's bytes, and a table kept as a list of the rows that differ from a default. -/

namespace Sys2Proof

/-- One byte of a frame. -/
abbrev Byte := BitVec 8

/-- The 4,096 bytes of one sector (00 Fixed Numbers), byte 0 the most significant. The part moves them and never
computes with them. -/
abbrev Sector := BitVec 32768

/-- A table of records under numbers. A number without a row holds the table's default record; the rows stand in
strictly rising order and none equals the default (log 28). -/
abbrev Table (α : Type) := List (Nat × α)

end Sys2Proof
end

