-- ==== Sys2Proof/Config.lean ====
section
/-! DEFINITION. The fixed numbers of the part (00 Fixed Numbers) and the limits its rules name. -/

namespace Sys2Proof.Config

/-- Slots of a stripe and of a staging half. -/
abbrev stripeSlots : Nat := 16
/-- The last stripe of an erase unit. -/
abbrev lastStripe : Nat := 255
/-- Sectors of an erase unit. -/
abbrev unitSectors : Nat := 4096
/-- Erase units. -/
abbrev unitCount : Nat := 32768
/-- Dies; the die of unit u is u mod 64. -/
abbrev dieCount : Nat := 64
/-- Dies of one group; the group of die d is d div 8. -/
abbrev groupDies : Nat := 8
/-- Die groups, and supply pools. -/
abbrev groupCount : Nat := 8
/-- Tenants; tenant 0 is the drive tenant. -/
abbrev tenantCount : Nat := 1024
/-- Streams of a tenant. -/
abbrev streamCount : Nat := 8
/-- The relocation stream. -/
abbrev relocationStream : Nat := 7
/-- Open lanes. -/
abbrev laneCount : Nat := 128
/-- Write intake slots (R5). -/
abbrev writeSlots : Nat := 64
/-- Control request slots (R6). -/
abbrev controlSlots : Nat := 16
/-- Placement queue entries (R10). -/
abbrev placementEntries : Nat := 256
/-- Entries of the working list and of the nomination list (R140). -/
abbrev nominationEntries : Nat := 16
/-- Flush records of one tenant (R82). -/
abbrev tenantFlushes : Nat := 4
/-- The device's notice source (00 Fixed Numbers). -/
abbrev deviceSource : Nat := 1024
/-- Most entries of a list request. -/
abbrev listEntries : Nat := 64
/-- The floor sum does not exceed this (R25). -/
abbrev floorLimit : Nat := 96
/-- Replies queued at which the receiver takes no further frame (R4). -/
abbrev replyHold : Nat := 96
/-- A counter's largest value (R19). -/
abbrev counterMax : Nat := 4294967295
/-- The report credit's largest value (R8). -/
abbrev creditMax : Nat := 65535
/-- The largest age (R127). -/
abbrev ageMax : Nat := 255
/-- The largest length field of a frame that is not discarded at once (R1). -/
abbrev frameLengthMax : Nat := 65600
/-- How many internal events one command may handle: far above what any command can raise (log 9). -/
abbrev cascadeFuel : Nat := 1000000

/-- The code by which a snapshot record shows a state, for the kind of state and its place in the kind's list. The manual
gives no such codes, so they are free values: nothing constrains them (log 24). -/
opaque snapshotCode : Nat → Nat → BitVec 8

end Sys2Proof.Config
end

