-- ==== Sys2Proof/Syntax.lean ====
section
/-! DEFINITION. The commands of the block: one constructor for each row of the table of operations and events, with the
operands its chapter gives. Fields of a frame have the width they take in the payload (R2). -/

namespace Sys2Proof

/-- The payload of CONFIGURE: the eleven settings in the order of R14's table. -/
structure RawSettings where
  epochLength : BitVec 16
  programTimeout : BitVec 8
  drainDeadline : BitVec 16
  parkedLimit : BitVec 16
  groupLimit : BitVec 8
  lowWater : BitVec 16
  epochNotice : BitVec 8
  autoResume : BitVec 8
  holdupArmed : BitVec 8
  trigger : BitVec 8
  scanRepetition : BitVec 8
  deriving DecidableEq, Repr

/-- A policy record as a request carries it: 31 bytes, in the order of section 2.2's table. -/
structure RawPolicy where
  activeStreams : BitVec 8
  /-- one entry for each hint, 0 to 15 -/
  streamMap : List (BitVec 8)
  allowance : BitVec 24
  laneQuota : BitVec 8
  laneFloor : BitVec 8
  poolMask : BitVec 8
  noUnit : BitVec 8
  flushMode : BitVec 8
  watchSource : BitVec 8
  watchLow : BitVec 16
  watchHigh : BitVec 16
  watchDepth : BitVec 8
  deriving DecidableEq, Repr

/-- One entry of DECLARE_UNITS, 9 bytes (R129). -/
structure DeclareEntry where
  unit : BitVec 16
  state : BitVec 8
  owner : BitVec 16
  stream : BitVec 8
  valid : BitVec 16
  age : BitVec 8
  deriving DecidableEq, Repr

/-- One entry of INVALIDATE (R131). -/
structure InvalidateEntry where
  unit : BitVec 16
  count : BitVec 16
  deriving DecidableEq, Repr

/-- The target code of QUERY with the id fields it names (R17). -/
inductive QueryTarget where
  | device
  | tenant (t : BitVec 16)
  | stream (t : BitVec 16) (x : BitVec 8)
  | lane (l : BitVec 8)
  | unit (u : BitVec 16)
  | pools
  | nominations
  /-- the target code 7 + above, which names no target -/
  | unassigned (above : Fin 249)
  deriving DecidableEq, Repr

/-- Why the receiver discards a frame (R1, R2, R3). -/
inductive DiscardReason where
  /-- the length field is above 65,600 -/
  | tooLong
  /-- the CRC does not match -/
  | badCrc
  /-- the length disagrees with the length the kind implies -/
  | wrongLength
  /-- REPLY, PLACEMENT or NOTICE: one of the part's own kinds -/
  | partKind
  /-- a start delimiter arrived while the frame was being read -/
  | newDelimiter
  /-- the frame after a resync delimiter is not a LINK_RESYNC -/
  | afterResync
  deriving DecidableEq, Repr

/-- The commands. `tag` is the link tag of a request. -/
inductive Instr where
  -- requests and other traffic of the Command Link
  | write (tag tenant : BitVec 16) (hint flags : BitVec 8) (writeTag : BitVec 32) (count : BitVec 8)
      (sectors : List Sector)
  | configure (tag : BitVec 16) (raw : RawSettings)
  | start (tag : BitVec 16)
  | declareUnits (tag : BitVec 16) (count : BitVec 8) (entries : List DeclareEntry)
  | supplyUnits (tag : BitVec 16) (count : BitVec 8) (entries : List (BitVec 16))
  | releaseUnits (tag : BitVec 16) (force count : BitVec 8) (entries : List (BitVec 16))
  | invalidate (tag : BitVec 16) (count : BitVec 8) (entries : List InvalidateEntry)
  | reclaimUnit (tag unit : BitVec 16)
  | admitTenant (tag tenant : BitVec 16) (raw : RawPolicy)
  | setPolicy (tag tenant : BitVec 16) (whenCode : BitVec 8) (raw : RawPolicy)
  | cancelPending (tag tenant : BitVec 16)
  | suspendTenant (tag tenant : BitVec 16)
  | resumeTenant (tag tenant : BitVec 16)
  | removeTenant (tag tenant : BitVec 16) (mode : BitVec 8)
  | flushTenant (tag tenant : BitVec 16)
  | startScan (tag : BitVec 16) (scope : BitVec 8) (tenant : BitVec 16)
  | takeNomination (tag : BitVec 16) (scope : BitVec 8) (tenant : BitVec 16)
  | forceEpoch (tag : BitVec 16) (quiet : BitVec 8)
  | policyHold (tag : BitVec 16) (code : BitVec 8)
  | grantCredits (tag grant : BitVec 16)
  | query (tag : BitVec 16) (target : QueryTarget) (clear : BitVec 8)
  | resumeFromHold (tag : BitVec 16)
  | deviceReset (tag : BitVec 16)
  /-- `hold`: the HOLD input is asserted as the reset ends (R176). -/
  | deviceResetTakesEffect (hold : Bool)
  /-- `hold`: the HOLD input is asserted as the reset ends (R176). -/
  | resetN (hold : Bool)
  | linkResync (tag : BitVec 16)
  | resyncDelimiter
  | unassignedFrame (tag : BitVec 16)
  | frameDiscard (why : DiscardReason)
  -- the transmitter of the Command Link
  | sendReply
  | sendPlacementReport
  | sendNotice
  -- the admission unit
  | sectorOffer (tenant : BitVec 10)
  -- the Media Link and the order timers
  | programDone (die : BitVec 6) (seq : BitVec 8) (unit : BitVec 15)
  | mediaReportCorrupt
  | programFail (die : BitVec 6) (seq : BitVec 8) (unit : BitVec 15)
  | programTimeout (die : BitVec 6)
  | sealDone (die : BitVec 6) (seq : BitVec 8) (unit : BitVec 15)
  | sealFail (die : BitVec 6) (seq : BitVec 8) (unit : BitVec 15)
  | sealTimeout (die : BitVec 6)
  -- the epoch timer, the scan, the drain deadline and the HOLD input
  | epochBoundary
  | scanVisit
  | drainDeadlineExpiry (tenant : BitVec 10)
  | holdAsserted
  | holdDeasserted
  deriving DecidableEq, Repr

end Sys2Proof
end

