-- ==== Sys2Proof/Machine/State.lean ====
section
/-! DEFINITION. Everything the spec gives the part, as plain data; the reasons a step could stop; and the machine right
after device reset. -/

namespace Sys2Proof.Machine

/-- No command of this part stops it, so there is no fault (safe: the type has no value). -/
inductive Fault where
  deriving DecidableEq, Repr

/-- Raised only by the dispatch of a command that has no meaning yet, of which there is none (safe). -/
inductive Refusal where
  /-- the command's row has no meaning in the model -/
  | notModelled (mnemonic : String)
  deriving DecidableEq, Repr

/-! ## Link port -/

/-- The device operating state (R13). -/
inductive DeviceState where | config | running | holding | held
  deriving DecidableEq, Repr

/-- The scan trigger source (R14). -/
inductive TriggerSource where | none | epoch | supplyLow | continuous
  deriving DecidableEq, Repr

/-- The settings in force (R14). -/
structure Settings where
  epochLength : Nat
  programTimeout : Nat
  drainDeadline : Nat
  parkedLimit : Nat
  groupLimit : Nat
  lowWater : Nat
  epochNotice : Bool
  autoResume : Bool
  holdupArmed : Bool
  trigger : TriggerSource
  scanRepetition : Nat
  deriving DecidableEq, Repr

/-- What a lane does when no allowed pool has a unit (section 2.2). -/
inductive NoUnit where | spill | wait | refuse
  deriving DecidableEq, Repr

inductive FlushMode where | pad | holdup
  deriving DecidableEq, Repr

inductive WatchSource where | none | victimValid | creditLeft | evictions
  deriving DecidableEq, Repr

/-- A policy record as it is stored: checked by R23 and clamped by R24. -/
structure Policy where
  activeStreams : Nat
  streamMap : List Nat
  /-- 0: unlimited -/
  allowance : Nat
  laneQuota : Nat
  laneFloor : Nat
  poolMask : BitVec 8
  noUnit : NoUnit
  flushMode : FlushMode
  watchSource : WatchSource
  watchLow : Nat
  watchHigh : Nat
  watchDepth : Nat
  deriving DecidableEq, Repr

/-- Status codes (section 1.2). -/
inductive Status where
  | ok | accepted | wrongState | badRequest | busy | noSlot | tenantState | noSpace | aborted | holdAbort
  | holdPartial | none | unitsRemain | noCapacity | stillValid
  deriving DecidableEq, Repr

/-- The device counters (R19), each 0 to 4,294,967,295 and saturating. -/
structure DeviceCounters where
  linkErrors : Nat
  staleReports : Nat
  programFails : Nat
  programTimeouts : Nat
  triggersIgnored : Nat
  underruns : Nat
  invalidatesIgnored : Nat
  forcedReleases : Nat
  sectorsLost : Nat
  deriving DecidableEq, Repr

/-- The tenant counters (R19). -/
structure TenantCounters where
  accepted : Nat
  placed : Nat
  pad : Nat
  evictions : Nat
  mapClamps : Nat
  creditWaits : Nat
  noSpace : Nat
  deriving DecidableEq, Repr

/-- Notice kinds (section 1.5), in ascending order of code. -/
inductive NoticeKind where
  | unitFailed | watch | drained | noSpace | supplyLow | nominationsReady | holdDone | linkError | epoch | mediaStale
  deriving DecidableEq, Repr

/-- One pending kind of a source (R11). -/
structure NoticeEntry where
  kind : NoticeKind
  repeats : Nat
  detail : BitVec 32
  deriving DecidableEq, Repr

/-- An extent of a placement report (section 1.2). -/
structure Extent where
  writeTag : BitVec 32
  firstSector : Nat
  count : Nat
  unit : Nat
  stripe : Nat
  firstSlot : Nat
  deriving DecidableEq, Repr

/-- Half A or half B of a lane (R57). -/
inductive HalfId where | a | b
  deriving DecidableEq, Repr

/-- An entry of the placement queue (R10). A RESERVED entry stands for the order of one half. -/
inductive PlaceEntry where
  | reserved (lane : Nat) (half : HalfId)
  | ready (tenant stream : Nat) (extents : List Extent)
  deriving DecidableEq, Repr

/-- Which of the two unsolicited kinds the arbiter prefers (R9). -/
inductive Preference where | placement | notice
  deriving DecidableEq, Repr

/-! ## Tenant table and watch unit -/

inductive TenantState where | vacant | active | suspended | draining | removed
  deriving DecidableEq, Repr

inductive Side where | none | over | under
  deriving DecidableEq, Repr

/-- A watch record (R161). -/
structure WatchRecord where
  count : Nat
  side : Side
  deriving DecidableEq, Repr

inductive DrainMode where | flush | abort
  deriving DecidableEq, Repr

inductive DrainPhase where | frames | closed
  deriving DecidableEq, Repr

/-- The drain deadline timer (R165) with its time remaining in milliseconds. -/
inductive DrainTimer where
  | absent
  | running (left : Nat)
  | stopped (left : Nat)
  deriving DecidableEq, Repr

/-- The drain record (R165). -/
structure Drain where
  mode : DrainMode
  phase : DrainPhase
  timer : DrainTimer
  deriving DecidableEq, Repr

/-- A tenant context (section 2.1), without its stream contexts and flush records, which stand in tables of their own. -/
structure Tenant where
  state : TenantState
  active : Policy
  pendingPolicy : Option Policy
  owned : Nat
  bound : Nat
  credit : Nat
  /-- lanes evicted in the current epoch (R75, R162) -/
  epochEvictions : Nat
  watch : WatchRecord
  drain : Option Drain
  counters : TenantCounters
  deriving DecidableEq, Repr

/-- The binding of a stream context (R38). -/
inductive Binding where
  | unbound
  | waiting
  | bound (lane : Nat)
  deriving DecidableEq, Repr

/-- A stream context (R38). -/
structure StreamCtx where
  binding : Binding
  /-- the parked unit and its next stripe -/
  parkedUnit : Option (Nat × Nat)
  accepted : Nat
  placed : Nat
  deriving DecidableEq, Repr

/-! ## Admission unit -/

inductive Settlement where | unsettled | charged | exempt
  deriving DecidableEq, Repr

/-- The step a frame stands at (R43, log 25). -/
inductive HeadStep where
  /-- not served yet -/
  | queued
  /-- waits for credit -/
  | credit
  /-- waits for a lane -/
  | lane
  /-- waits for a half -/
  | half
  /-- at the staging step: its next sector may be offered -/
  | staging
  deriving DecidableEq, Repr

/-- A frame record in its write intake slot (R42). -/
structure Frame where
  tag : BitVec 16
  tenant : Nat
  stream : Nat
  relocation : Bool
  writeTag : BitVec 32
  /-- the sectors of the frame; their number is the sector count n -/
  sectors : List Sector
  staged : Nat
  settlement : Settlement
  creditWaited : Bool
  step : HeadStep
  deriving DecidableEq, Repr

/-! ## Lane engine -/

/-- A slot of a staging half (R58). -/
inductive Slot where
  | real (tenant : Nat) (writeTag : BitVec 32) (index : Nat) (data : Sector)
  | pad
  deriving DecidableEq, Repr

inductive HalfState where | empty | filling | full | programming
  deriving DecidableEq, Repr

/-- A half record (R58). -/
structure Half where
  state : HalfState
  slots : List Slot
  /-- the assigned unit and stripe -/
  assigned : Option (Nat × Nat)
  sealMark : Bool
  /-- the flush records that reference the half, by control slot (log 18) -/
  refs : List Nat
  deriving DecidableEq, Repr

inductive LaneState where | free | unitWait | active | closing
  deriving DecidableEq, Repr

/-- A lane record (R57). -/
structure Lane where
  state : LaneState
  /-- tenant and stream index -/
  stream : Option (Nat × Nat)
  /-- the current unit and the lane's next stripe -/
  current : Option (Nat × Nat)
  halfA : Half
  halfB : Half
  firstFull : Option HalfId
  failRun : Nat
  deriving DecidableEq, Repr

/-- A flush record (R83). It holds the control slot of its FLUSH_TENANT, whose number names it. -/
structure FlushRec where
  slot : Nat
  tag : BitVec 16
  tenant : Nat
  awaited : Nat
  started : Nat
  lost : Bool
  deriving DecidableEq, Repr

/-! ## Media dispatcher -/

/-- An entry of a die queue (R101). -/
inductive DieEntry where
  | half (lane : Nat) (half : HalfId)
  | seal (unit : Nat)
  deriving DecidableEq, Repr

/-- What an order does (R100): a program order carries a half, its stripe, its seal mark and sixteen slots. -/
inductive OrderKind where
  | program (lane : Nat) (half : HalfId) (stripe : Nat) (sealMark : Bool) (slots : List Sector)
  | seal
  deriving DecidableEq, Repr

/-- The order in flight on a BUSY die (R100, R102). Its tag is the die and `seq`. -/
structure Order where
  seq : BitVec 8
  unit : Nat
  kind : OrderKind
  /-- milliseconds the order's timer was started with (R115) -/
  timer : Nat
  deriving DecidableEq, Repr

/-- A die: its queue, its order in flight (none: IDLE) and its sequence. -/
structure Die where
  queue : List DieEntry
  busy : Option Order
  seq : BitVec 8
  deriving DecidableEq, Repr

/-! ## Unit registry -/

inductive UnitState where | unknown | vacant | free | opened | parked | sealed | reclaiming | retired
  deriving DecidableEq, Repr

/-- A unit record (R122). -/
structure UnitRec where
  state : UnitState
  /-- owner tenant and stream index -/
  owner : Option (Nat × Nat)
  valid : Nat
  programmed : Nat
  nextStripe : Nat
  sealEpoch : Option Int
  failed : Bool
  deriving DecidableEq, Repr

/-! ## Reclaim scanner -/

inductive ScanScope where
  | all
  | tenant (t : Nat)
  deriving DecidableEq, Repr

/-- A running scan (R140). -/
structure Scan where
  scope : ScanScope
  position : Nat
  deriving DecidableEq, Repr

/-- An entry of the working list (R140). -/
structure WorkEntry where
  unit : Nat
  owner : Nat
  valid : Nat
  score : Nat
  deriving DecidableEq, Repr

/-- An entry of the nomination list (R141). -/
structure Nomination where
  entry : WorkEntry
  withdrawn : Bool
  deriving DecidableEq, Repr

/-! ## Replies and frames sent -/

/-- The DEVICE snapshot (R18). -/
structure DeviceSnapshot where
  device : DeviceState
  epoch : BitVec 32
  settings : Settings
  policyHold : Bool
  scanRunning : Bool
  credit : Nat
  attentionLength : Nat
  placementReady : Nat
  placementReserved : Nat
  freeWriteSlots : Nat
  freeControlSlots : Nat
  parked : Nat
  counters : DeviceCounters
  deriving DecidableEq, Repr

/-- The TENANT snapshot (R18). -/
structure TenantSnapshot where
  state : TenantState
  active : Policy
  pendingPolicy : Option Policy
  credit : Nat
  owned : Nat
  bound : Nat
  queueLength : Nat
  flushes : Nat
  watch : WatchRecord
  counters : TenantCounters
  deriving DecidableEq, Repr

/-- One half as the LANE snapshot shows it (R18). -/
structure HalfSnapshot where
  state : HalfState
  real : Nat
  pad : Nat
  assigned : Option (Nat × Nat)
  sealMark : Bool
  refs : Nat
  deriving DecidableEq, Repr

/-- The LANE snapshot (R18, R57). -/
structure LaneSnapshot where
  state : LaneState
  stream : Option (Nat × Nat)
  current : Option (Nat × Nat)
  failRun : Nat
  position : Option Nat
  halfA : HalfSnapshot
  halfB : HalfSnapshot
  /-- the first-full mark: not in R18's list, and shown because R57 says every field is (log 42) -/
  firstFull : Option HalfId
  deriving DecidableEq, Repr

/-- The UNIT snapshot (R18, R137). -/
structure UnitSnapshot where
  state : UnitState
  owner : Option (Nat × Nat)
  valid : Nat
  programmed : Nat
  nextStripe : Nat
  sealEpoch : Option Int
  /-- age and score, when SEALED -/
  ageScore : Option (Nat × Nat)
  failed : Bool
  deriving DecidableEq, Repr

/-- The POOLS snapshot (R18, R86). -/
structure PoolsSnapshot where
  pools : List (Nat × Option Nat)
  unitWait : Nat
  lowMask : BitVec 8
  deriving DecidableEq, Repr

/-- A snapshot record (R18). -/
inductive Snapshot where
  | device (r : DeviceSnapshot)
  | tenant (r : TenantSnapshot)
  | stream (r : StreamCtx)
  | lane (r : LaneSnapshot)
  | unit (r : UnitSnapshot)
  | pools (r : PoolsSnapshot)
  | nominations (r : List WorkEntry)
  deriving DecidableEq, Repr

/-- The result fields of a reply. -/
inductive ReplyBody where
  /-- the status alone -/
  | bare
  /-- the settings in force (R14) -/
  | settings (v : Settings)
  /-- a policy record (R27, R28, R31) -/
  | policy (p : Policy)
  /-- the stream and the staged count of a queued frame (R55) -/
  | write (stream staged : Nat)
  /-- one status for each entry of a list request -/
  | entries (l : List Status)
  /-- the report credit in force (R8) -/
  | credit (n : Nat)
  /-- the epoch number (R156) -/
  | epoch (n : BitVec 32)
  /-- the policy hold in force (R158) -/
  | hold (on : Bool)
  /-- frames ended and the owned-unit count (R166) -/
  | removal (ended owned : Nat)
  /-- the awaited count a flush started with (R82, R84) -/
  | flush (awaited : Nat)
  /-- owner, stream, valid count and age (R133) -/
  | reclaim (owner stream valid age : Nat)
  /-- unit, owner, valid count and score (R151) -/
  | nomination (unit owner valid score : Nat)
  /-- a snapshot record (R17) -/
  | snapshot (r : Snapshot)
  deriving DecidableEq, Repr

/-- A reply (section 1.2). -/
structure Reply where
  tag : BitVec 16
  status : Status
  body : ReplyBody
  deriving DecidableEq, Repr

/-- A frame the transmitter sends (R7). -/
inductive TxFrame where
  | reply (r : Reply)
  | placement (tenant stream : Nat) (extents : List Extent)
  | notice (source : Nat) (entries : List NoticeEntry)
  deriving DecidableEq, Repr

/-! ## The model's own work list -/

/-- Internal events that a command has raised and not yet handled (log 8): empty between commands. -/
structure Work where
  /-- the unit wait queue is to be served (R95) -/
  serveUnits : Bool
  /-- lanes to be handed to the lane wait queue (R65), oldest first -/
  freed : List Nat
  /-- the eviction check is to be made (R67) -/
  check : Bool
  /-- tenants whose queue head is to be served (R48), oldest first -/
  heads : List Nat
  deriving DecidableEq, Repr

/-! ## The whole machine -/

/-- The state of the part. -/
structure State where
  -- link port
  device : DeviceState
  settings : Settings
  /-- the held write intake slots, oldest first (R5, R42) -/
  intake : List Frame
  /-- the flush records, which are the held control slots (R6, R83) -/
  flushes : List FlushRec
  replies : List Reply
  /-- the frame the transmitter began last (R7, log 6) -/
  tx : Option TxFrame
  /-- the bytes of the frame being received that have come since its start delimiter, the last first; none while the
  receiver looks for a start delimiter (R1, R4, R15, log 4) -/
  receiving : Option (List Byte)
  /-- the last symbol before the next frame was a resync delimiter (R3, log 27) -/
  resyncArmed : Bool
  /-- a DEVICE_RESET was taken, and this many replies are still to be sent, its own the last (R15, log 29) -/
  resetWait : Option Nat
  credit : Nat
  preference : Preference
  placement : List PlaceEntry
  /-- the pending set of each source, in ascending order of kind code (R11) -/
  notices : Table (List NoticeEntry)
  attention : List Nat
  counters : DeviceCounters
  /-- the MDL_RST output (R15, log 21) -/
  mdlRst : Bool
  -- tenant table
  tenants : Table Tenant
  /-- stream x of tenant t stands under 8 × t + x -/
  streams : Table StreamCtx
  -- lane engine
  lanes : Table Lane
  /-- least recently staged first (R61) -/
  recency : List Nat
  /-- tenant and stream, oldest first (R62) -/
  laneWait : List (Nat × Nat)
  /-- the parked-unit count (R77) -/
  parked : Nat
  -- supply pools
  /-- head first (R86) -/
  pools : Table (List Nat)
  /-- oldest first (R94) -/
  unitWait : List Nat
  -- media dispatcher
  dies : Table Die
  /-- the round-robin pointer of group g names die 8 × g + its row here (R104) -/
  groupPos : Table Nat
  groupPtr : Nat
  /-- the dies with an order in flight, in order of dispatch (R99) -/
  ordersSent : List Nat
  -- unit registry
  units : Table UnitRec
  -- reclaim scanner
  scan : Option Scan
  working : List WorkEntry
  nominations : List Nomination
  -- epoch timer
  epoch : BitVec 32
  /-- milliseconds the running timer was started with; none: stopped (R153, log 3) -/
  epochTimer : Option Nat
  scanCount : Nat
  policyHold : Bool
  -- hold controller
  lost : Nat
  holdLevel : Bool
  -- the model's own
  work : Work
  /-- the commands that wait, first in, first out -/
  pending : List Instr
  deriving DecidableEq, Repr

/-! ## Values after device reset -/

/-- R14's defaults. -/
def Settings.reset : Settings where
  epochLength := 100
  programTimeout := 20
  drainDeadline := 5000
  parkedLimit := 256
  groupLimit := 3
  lowWater := 16
  epochNotice := false
  autoResume := false
  holdupArmed := false
  trigger := .none
  scanRepetition := 0

/-- R37's default record. -/
def Policy.reset : Policy where
  activeStreams := 1
  streamMap := [0, 0, 0, 0, 0, 0, 0, 0, 0, 0, 0, 0, 0, 0, 0, 0]
  allowance := 0
  laneQuota := 2
  laneFloor := 1
  poolMask := 255#8
  noUnit := .wait
  flushMode := .pad
  watchSource := .none
  watchLow := 0
  watchHigh := 65535
  watchDepth := 0

def DeviceCounters.reset : DeviceCounters := ⟨0, 0, 0, 0, 0, 0, 0, 0, 0⟩

def TenantCounters.reset : TenantCounters := ⟨0, 0, 0, 0, 0, 0, 0⟩

/-- The context of tenants 1 to 1,023 after reset (section 2.1). -/
def Tenant.reset : Tenant where
  state := .vacant
  active := Policy.reset
  pendingPolicy := none
  owned := 0
  bound := 0
  credit := 0
  epochEvictions := 0
  watch := ⟨0, .none⟩
  drain := none
  counters := TenantCounters.reset

/-- R38: UNBOUND with no parked unit. -/
def StreamCtx.reset : StreamCtx := ⟨.unbound, none, 0, 0⟩

/-- R58: EMPTY. -/
def Half.reset : Half := ⟨.empty, [], none, false, []⟩

/-- R57: FREE. -/
def Lane.reset : Lane := ⟨.free, none, none, Half.reset, Half.reset, none, 0⟩

/-- R102: IDLE, with an empty queue and sequence 0. -/
def Die.reset : Die := ⟨[], none, 0#8⟩

/-- R122: UNKNOWN. -/
def UnitRec.reset : UnitRec := ⟨.unknown, none, 0, 0, 0, none, false⟩

/-- No internal event waits. -/
def Work.empty : Work := ⟨false, [], false, []⟩

/-- The machine right after device reset (R16, R20, R37, R57, R58, R86, R121, R122, R140, R153, R154, R158, R159, R176).
The recorded HOLD level is what the input shows as the reset ends; here it is deasserted (DESIGN CHOICE, log 5). -/
def State.reset : State where
  device := .config
  settings := Settings.reset
  intake := []
  flushes := []
  replies := []
  tx := none
  receiving := none
  resyncArmed := false
  resetWait := none
  credit := 0
  preference := .placement
  placement := []
  notices := []
  attention := []
  counters := DeviceCounters.reset
  mdlRst := true
  tenants := [(0, { Tenant.reset with state := .active })]
  streams := []
  lanes := []
  recency := []
  laneWait := []
  parked := 0
  pools := []
  unitWait := []
  dies := []
  groupPos := []
  groupPtr := 0
  ordersSent := []
  units := []
  scan := none
  working := []
  nominations := []
  epoch := 0#32
  epochTimer := none
  scanCount := 0
  policyHold := false
  lost := 0
  holdLevel := false
  work := Work.empty
  pending := []

end Sys2Proof.Machine
end

