-- ==== Sys2Proof/Machine/Table.lean ====
section
/-! DEFINITION. Reading and writing a row of a table, and the form in which a table is kept. -/

namespace Sys2Proof.Machine

variable {α : Type}

/-- The record under n: its row's, or the default where there is no row. -/
def rowOf (d : α) : Table α → Nat → α
  | [], _ => d
  | (k, v) :: rest, n => if k = n then v else rowOf d rest n

/-- A row put in its place among rows in rising order. -/
def insertRow (n : Nat) (v : α) : Table α → Table α
  | [] => [(n, v)]
  | (k, w) :: rest => if n < k then (n, v) :: (k, w) :: rest else (k, w) :: insertRow n v rest

/-- The table with v under n: the row of n is dropped, and a new one is put in unless v is the default. -/
def putRow [DecidableEq α] (d : α) (t : Table α) (n : Nat) (v : α) : Table α :=
  let rest := t.filter (fun row => row.1 ≠ n)
  if v = d then rest else insertRow n v rest

/-- The numbers that have a row. -/
def rowKeys (t : Table α) : List Nat := t.map Prod.fst

/-- Every number of a list rises above the one before it, all above the bound. -/
def risingAbove : Nat → List Nat → Bool
  | _, [] => true
  | b, k :: rest => b ≤ k && risingAbove (k + 1) rest

/-- The form a table is kept in: strictly rising numbers and no row equal to the default. -/
def tableWf [DecidableEq α] (d : α) (t : Table α) : Bool :=
  risingAbove 0 (rowKeys t) && t.all (fun row => decide (row.2 ≠ d))

end Sys2Proof.Machine
end

