-- ==== Sys2Proof/Machine/Ops.lean ====
section
/-! DEFINITION. The named operations over the part's records: reading and writing each of them, forming replies, and
taking a frame from the Command Link. -/

namespace Sys2Proof.Machine

/-! ## Numbers -/

/-- The die of a unit (00 Fixed Numbers). -/
def dieOf (u : Nat) : Nat := u % Config.dieCount

/-- The group of a die. -/
def groupOf (d : Nat) : Nat := d / Config.groupDies

/-- The group of a unit, and so its pool (R86). -/
def poolOf (u : Nat) : Nat := groupOf (dieOf u)

/-- A counter raised by n: 32 bits, saturating (R19). -/
def bump (c n : Nat) : Nat := min (c + n) Config.counterMax

/-- A value brought into a range (R14, R24). -/
def clampTo (lo hi v : Nat) : Nat := max lo (min v hi)

/-- The row of a stream context. -/
def streamKey (t x : Nat) : Nat := Config.streamCount * t + x

/-! ## Records -/

def State.tenant (s : State) (t : Nat) : Tenant := rowOf Tenant.reset s.tenants t

def State.setTenant (s : State) (t : Nat) (v : Tenant) : State :=
  { s with tenants := putRow Tenant.reset s.tenants t v }

def State.stream (s : State) (t x : Nat) : StreamCtx := rowOf StreamCtx.reset s.streams (streamKey t x)

def State.setStream (s : State) (t x : Nat) (v : StreamCtx) : State :=
  { s with streams := putRow StreamCtx.reset s.streams (streamKey t x) v }

def State.lane (s : State) (l : Nat) : Lane := rowOf Lane.reset s.lanes l

def State.setLane (s : State) (l : Nat) (v : Lane) : State :=
  { s with lanes := putRow Lane.reset s.lanes l v }

def State.unit (s : State) (u : Nat) : UnitRec := rowOf UnitRec.reset s.units u

def State.setUnit (s : State) (u : Nat) (v : UnitRec) : State :=
  { s with units := putRow UnitRec.reset s.units u v }

def State.die (s : State) (d : Nat) : Die := rowOf Die.reset s.dies d

def State.setDie (s : State) (d : Nat) (v : Die) : State :=
  { s with dies := putRow Die.reset s.dies d v }

def State.pool (s : State) (g : Nat) : List Nat := rowOf [] s.pools g

def State.setPool (s : State) (g : Nat) (v : List Nat) : State :=
  { s with pools := putRow [] s.pools g v }

/-- The pending set of a source (R11). -/
def State.pendingSet (s : State) (src : Nat) : List NoticeEntry := rowOf [] s.notices src

def State.setPendingSet (s : State) (src : Nat) (v : List NoticeEntry) : State :=
  { s with notices := putRow [] s.notices src v }

def State.modTenant (s : State) (t : Nat) (f : Tenant → Tenant) : State := s.setTenant t (f (s.tenant t))

def State.modStream (s : State) (t x : Nat) (f : StreamCtx → StreamCtx) : State := s.setStream t x (f (s.stream t x))

def State.modLane (s : State) (l : Nat) (f : Lane → Lane) : State := s.setLane l (f (s.lane l))

def State.modUnit (s : State) (u : Nat) (f : UnitRec → UnitRec) : State := s.setUnit u (f (s.unit u))

def State.modDie (s : State) (d : Nat) (f : Die → Die) : State := s.setDie d (f (s.die d))

def State.modCounters (s : State) (f : DeviceCounters → DeviceCounters) : State :=
  { s with counters := f s.counters }

def State.modTenantCounters (s : State) (t : Nat) (f : TenantCounters → TenantCounters) : State :=
  s.modTenant t (fun v => { v with counters := f v.counters })

/-! ## Unit moves -/

/-- A FREE unit is taken for stream x of tenant t and becomes OPEN (R89, R123); no other state moves so. -/
def UnitRec.takenFor (t x : Nat) (r : UnitRec) : UnitRec :=
  if r.state = .free then { r with state := .opened, owner := some (t, x) } else r

/-- An OPEN unit becomes PARKED (R77, R123); no other state moves so. -/
def UnitRec.setAside (r : UnitRec) : UnitRec := if r.state = .opened then { r with state := .parked } else r

/-- The unit is OPEN or PARKED: it is in use for programming, or set aside partly programmed (R123). -/
def UnitRec.isOpen (r : UnitRec) : Bool := r.state = .opened || r.state = .parked

/-- An OPEN or PARKED unit becomes SEALED at an epoch number (R110, R118, R123); no other state moves so. -/
def UnitRec.sealedAt (epoch : BitVec 32) (r : UnitRec) : UnitRec :=
  if r.isOpen then { r with state := .sealed, sealEpoch := some (epoch.toNat : Int) } else r

/-- A unit has failed: its mark is set, and an OPEN or PARKED one becomes RECLAIMING (R111, R119, R123). -/
def UnitRec.spoiled (r : UnitRec) : UnitRec :=
  { r with state := if r.isOpen then .reclaiming else r.state, failed := true }

/-! ## Halves -/

def HalfId.other : HalfId → HalfId
  | .a => .b
  | .b => .a

def Lane.half (v : Lane) : HalfId → Half
  | .a => v.halfA
  | .b => v.halfB

def Lane.setHalf (v : Lane) (h : HalfId) (w : Half) : Lane :=
  match h with
  | .a => { v with halfA := w }
  | .b => { v with halfB := w }

def State.half (s : State) (l : Nat) (h : HalfId) : Half := (s.lane l).half h

def State.modHalf (s : State) (l : Nat) (h : HalfId) (f : Half → Half) : State :=
  s.modLane l (fun v => v.setHalf h (f (v.half h)))

def Slot.isReal : Slot → Bool
  | .real _ _ _ _ => true
  | .pad => false

/-- The bytes a slot carries in a program order: a pad slot carries zeros (R58, R100). -/
def Slot.bytes : Slot → Sector
  | .real _ _ _ data => data
  | .pad => 0#32768

/-- The real count of a half (R58). -/
def Half.realCount (v : Half) : Nat := v.slots.countP Slot.isReal

/-- The pad count of a half (R58). -/
def Half.padCount (v : Half) : Nat := v.slots.length - v.realCount

/-- A FULL half without an assignment (R70). -/
def Half.waitsForUnit (v : Half) : Bool := v.state = .full && v.assigned.isNone

/-- A bound lane is in UNIT_WAIT or ACTIVE (R59). -/
def Lane.isBound (v : Lane) : Bool := v.state = .unitWait || v.state = .active

/-- Both halves are EMPTY (R76). -/
def Lane.isDrained (v : Lane) : Bool := v.halfA.state = .empty && v.halfB.state = .empty

/-- The lane's FILLING half (R69: at most one). -/
def Lane.filling (v : Lane) : Option HalfId :=
  if v.halfA.state = .filling then some .a else if v.halfB.state = .filling then some .b else none

/-- The half of a bound lane an offer goes to: the FILLING half, or the EMPTY half that becomes FILLING, A before B (R69).
A FREE or CLOSING lane takes none (R59). -/
def Lane.room (v : Lane) : Option HalfId :=
  if !v.isBound then none
  else
    match v.filling with
    | some h => some h
    | none => if v.halfA.state = .empty then some .a else if v.halfB.state = .empty then some .b else none

/-- The lane belongs to tenant t while its stream field names one of t's streams (R57). -/
def Lane.belongsTo (v : Lane) (t : Nat) : Bool :=
  match v.stream with
  | some (t', _) => t' = t
  | none => false

/-- The lanes that are not in their reset state, in ascending id. -/
def State.laneIds (s : State) : List Nat := rowKeys s.lanes

/-- The lowest-numbered FREE lane (R66). -/
def State.lowestFree (s : State) : Option Nat :=
  (List.range Config.laneCount).find? (fun l => (s.lane l).state = .free)

/-- The first lane of tenant t in the recency list (R61). -/
def State.leastRecentOf (s : State) (t : Nat) : Option Nat := s.recency.find? (fun l => (s.lane l).belongsTo t)

/-- A stream context joins the tail of the lane wait queue, which holds it once at most, and becomes WAITING (R62). -/
def State.joinLaneWait (s : State) (t x : Nat) : State :=
  let s := s.modStream t x (fun v => { v with binding := .waiting })
  { s with laneWait := if s.laneWait.contains (t, x) then s.laneWait else s.laneWait ++ [(t, x)] }

/-! ## The work list -/

/-- The head of tenant t's queue is to be served (R48). -/
def State.raiseHead (s : State) (t : Nat) : State :=
  { s with work := { s.work with heads := s.work.heads ++ [t] } }

/-- The unit wait queue is to be served (R95). -/
def State.raiseService (s : State) : State := { s with work := { s.work with serveUnits := true } }

/-- The eviction check is to be made (R67). -/
def State.raiseCheck (s : State) : State := { s with work := { s.work with check := true } }

/-- Lane l is to be handed to the lane wait queue (R65). -/
def State.raiseFreed (s : State) (l : Nat) : State :=
  { s with work := { s.work with freed := s.work.freed ++ [l] } }

/-! ## Replies -/

/-- A reply is formed: it goes to the tail of the reply queue (R4). -/
def State.reply (s : State) (tag : BitVec 16) (status : Status) (body : ReplyBody := .bare) : State :=
  { s with replies := s.replies ++ [⟨tag, status, body⟩] }

/-! ## Tenants -/

/-- A tenant id a request may carry (R26). -/
def tenantIdOk (t : BitVec 16) : Bool := t.toNat < Config.tenantCount

/-- A unit id a request may carry (R87). -/
def unitIdOk (u : BitVec 16) : Bool := u.toNat < Config.unitCount

/-- ACTIVE or SUSPENDED. -/
def Tenant.isServed (v : Tenant) : Bool := v.state = .active || v.state = .suspended

/-- The floor reservation (R25): the active floor, or the pending record's where it is the larger. -/
def Tenant.reservation (v : Tenant) : Nat :=
  match v.pendingPolicy with
  | some p => max v.active.laneFloor p.laneFloor
  | none => v.active.laneFloor

/-- The floor sum (R25): the reservations of all tenants not VACANT. -/
def State.floorSum (s : State) : Nat :=
  (s.tenants.map (fun row => if row.2.state = .vacant then 0 else row.2.reservation)).sum

/-- The tenant is DRAINING and its final close has been taken (R169). -/
def Tenant.isClosed (v : Tenant) : Bool :=
  v.state = .draining && (match v.drain with | some d => d.phase = .closed | none => false)

/-- The tenant is DRAINING and its queue may still hold frames (R165). -/
def Tenant.inFrames (v : Tenant) : Bool :=
  v.state = .draining && (match v.drain with | some d => d.phase = .frames | none => false)

/-- The frames of tenant t's admission queue, head first (R42). -/
def State.queueOf (s : State) (t : Nat) : List Frame := s.intake.filter (fun f => f.tenant = t)

/-- The head of tenant t's admission queue. -/
def State.headOf (s : State) (t : Nat) : Option Frame := s.intake.find? (fun f => f.tenant = t)

/-- The first frame of tenant t in a list, changed. -/
def modFirst (t : Nat) (g : Frame → Frame) : List Frame → List Frame
  | [] => []
  | f :: rest => if f.tenant = t then g f :: rest else f :: modFirst t g rest

/-- The head of tenant t's queue, changed. -/
def State.modHead (s : State) (t : Nat) (g : Frame → Frame) : State := { s with intake := modFirst t g s.intake }

/-- The head of tenant t's queue leaves, and its write intake slot is free (R5, R42). -/
def State.dropHead (s : State) (t : Nat) : State := { s with intake := s.intake.eraseP (fun f => f.tenant = t) }

end Sys2Proof.Machine
end

