-- ==== Sys2Proof/Machine/Operands.lean ====
section
/-! DEFINITION. The operand fields of requests: codes turned into names, the checks of a policy record (R23) and the
clamping of settings (R14) and records (R24). -/

namespace Sys2Proof.Machine

/-- A flag byte is on when it is not 0. -/
def flagOf (b : BitVec 8) : Bool := b ≠ 0#8

/-- Scan trigger source codes (R14). -/
def triggerOf (b : BitVec 8) : Option TriggerSource :=
  match b.toNat with
  | 0 => some .none
  | 1 => some .epoch
  | 2 => some .supplyLow
  | 3 => some .continuous
  | _ => Option.none

/-- The settings a CONFIGURE carries, clamped; none for a trigger source code above 3 (R14). -/
def settingsOf (raw : RawSettings) : Option Settings :=
  (triggerOf raw.trigger).map fun trigger =>
    { epochLength := clampTo 10 1000 raw.epochLength.toNat
      programTimeout := clampTo 1 255 raw.programTimeout.toNat
      drainDeadline := clampTo 0 60000 raw.drainDeadline.toNat
      parkedLimit := clampTo 0 512 raw.parkedLimit.toNat
      groupLimit := clampTo 1 8 raw.groupLimit.toNat
      lowWater := clampTo 0 4095 raw.lowWater.toNat
      epochNotice := flagOf raw.epochNotice
      autoResume := flagOf raw.autoResume
      holdupArmed := flagOf raw.holdupArmed
      trigger := trigger
      scanRepetition := raw.scanRepetition.toNat }

def noUnitOf (b : BitVec 8) : Option NoUnit :=
  match b.toNat with
  | 0 => some .spill
  | 1 => some .wait
  | 2 => some .refuse
  | _ => none

def flushModeOf (b : BitVec 8) : Option FlushMode :=
  match b.toNat with
  | 0 => some .pad
  | 1 => some .holdup
  | _ => none

def watchSourceOf (b : BitVec 8) : Option WatchSource :=
  match b.toNat with
  | 0 => some .none
  | 1 => some .victimValid
  | 2 => some .creditLeft
  | 3 => some .evictions
  | _ => Option.none

/-- The clamp of a credit allowance: 0 is unlimited and stays 0 (R24). -/
def clampAllowance (n : Nat) : Nat := if n = 0 then 0 else clampTo 16 1048575 n

/-- The checks of R23 that are ranges of numbers. -/
def policyRangesOk (raw : RawPolicy) : Bool :=
  1 ≤ raw.activeStreams.toNat && raw.activeStreams.toNat ≤ 7
    && raw.streamMap.all (fun e => e.toNat ≤ 6)
    && raw.laneQuota.toNat ≠ 0
    && raw.poolMask ≠ 0#8
    && raw.watchLow.toNat ≤ raw.watchHigh.toNat

/-- A record checked as R23 gives (none: BAD_REQUEST) and clamped as R24 gives. -/
def policyOf (raw : RawPolicy) : Option Policy :=
  match policyRangesOk raw, noUnitOf raw.noUnit, flushModeOf raw.flushMode, watchSourceOf raw.watchSource with
  | true, some noUnit, some flushMode, some watchSource =>
    let quota := min raw.laneQuota.toNat 8
    some
      { activeStreams := raw.activeStreams.toNat
        streamMap := raw.streamMap.map BitVec.toNat
        allowance := clampAllowance raw.allowance.toNat
        laneQuota := quota
        laneFloor := min (min raw.laneFloor.toNat 2) quota
        poolMask := raw.poolMask
        noUnit := noUnit
        flushMode := flushMode
        watchSource := watchSource
        watchLow := raw.watchLow.toNat
        watchHigh := raw.watchHigh.toNat
        watchDepth := min raw.watchDepth.toNat 15 }
  | _, _, _, _ => none

/-- A list request of 0 or above 64 entries is refused with BAD_REQUEST (R2). -/
def listOk (count : BitVec 8) : Bool := 1 ≤ count.toNat && count.toNat ≤ Config.listEntries

/-- A list request in which the entries are handled one at a time, each with a status of its own. -/
def handleEntries {ε : Type} (one : ε → State → State × Status) : List ε → State → State × List Status
  | [], s => (s, [])
  | e :: rest, s =>
    let r := one e s
    let q := handleEntries one rest r.1
    (q.1, r.2 :: q.2)

end Sys2Proof.Machine
end

