-- ==== Sys2Proof/Machine/Flags.lean ====
section
/-! DEFINITION. Pending notices and the attention list (section 1.5), and the frames the receiver discards (R1, R4). -/

namespace Sys2Proof.Machine

/-- The code of a notice kind (section 1.5). -/
def NoticeKind.code : NoticeKind → Nat
  | .unitFailed => 1
  | .watch => 2
  | .drained => 3
  | .noSpace => 4
  | .supplyLow => 16
  | .nominationsReady => 17
  | .holdDone => 18
  | .linkError => 19
  | .epoch => 20
  | .mediaStale => 21

/-- A kind that becomes pending takes its place in ascending order of code (R12). -/
def insertNotice (e : NoticeEntry) : List NoticeEntry → List NoticeEntry
  | [] => [e]
  | x :: rest => if e.kind.code < x.kind.code then e :: x :: rest else x :: insertNotice e rest

/-- A kind already pending: its repeat count rises, saturating at 255, and the detail is replaced (R11). -/
def repeatNotice (kind : NoticeKind) (detail : BitVec 32) (e : NoticeEntry) : NoticeEntry :=
  if e.kind = kind then { e with repeats := min (e.repeats + 1) 255, detail := detail } else e

/-- A block posts a notice (R11). -/
def State.post (s : State) (src : Nat) (kind : NoticeKind) (detail : BitVec 32) : State :=
  let set := s.pendingSet src
  if set.any (fun e => e.kind = kind) then
    s.setPendingSet src (set.map (repeatNotice kind detail))
  else
    let s' := s.setPendingSet src (insertNotice ⟨kind, 1, detail⟩ set)
    if set = [] then { s' with attention := s'.attention ++ [src] } else s'

/-- A frame is discarded: the link-error counter rises and LINK_ERROR is posted with its new value (R1). -/
def State.discardFrame (s : State) : State :=
  let s := s.modCounters (fun c => { c with linkErrors := bump c.linkErrors 1 })
  s.post Config.deviceSource .linkError (BitVec.ofNat 32 s.counters.linkErrors)

/-- The receiver accepts nothing: a DEVICE_RESET has been taken (R15), or 96 replies wait and no frame is being received
(R4, log 4). -/
def State.rxBlocked (s : State) : Bool :=
  s.resetWait.isSome || (Config.replyHold ≤ s.replies.length && s.receiving.isNone)

/-- The frame being received has come to its end, and the receiver looks for a start delimiter (R1). -/
def State.noteRx (s : State) : State := { s with receiving := none }

/-- A complete frame of a kind other than LINK_RESYNC reaches the receiver. After a resync delimiter it is discarded (R3);
with a length its kind does not imply it is discarded (R2); otherwise it is taken, and `act` is what follows. -/
def State.receive (s : State) (fits : Bool) (act : State → State) : State :=
  if s.rxBlocked then s
  else
    let s := s.noteRx
    if s.resyncArmed then { s with resyncArmed := false }.discardFrame
    else if fits then act s
    else s.discardFrame

/-- A control request: with all 16 control slots held it is answered NO_SLOT and nothing else changes (R6). The reply carries
the status alone, whatever result fields or entry statuses the request's other replies carry (log 34). -/
def State.control (s : State) (tag : BitVec 16) (fits : Bool) (act : State → State) : State :=
  s.receive fits (fun s => if Config.controlSlots ≤ s.flushes.length then s.reply tag .noSlot else act s)

end Sys2Proof.Machine
end

