-- ==== Sys2Proof/Machine/Scanner.lean ====
section
/-! DEFINITION. Age and score of a sealed unit (R127, R138), starting and ending a scan, its walk and its lists (chapter 8,
without the commands). -/

namespace Sys2Proof.Machine

/-- The age of a SEALED unit: the epoch number less its seal epoch modulo 2^32, limited to 255 (R127). -/
def ageOf (epoch : BitVec 32) (r : UnitRec) : Nat :=
  match r.sealEpoch with
  | some e => min (((epoch.toNat : Int) - e) % 4294967296).toNat Config.ageMax
  | none => 0

/-- The score for valid count v and age a (R138). -/
def scoreOf (v a : Nat) : Nat := (Config.unitSectors - v) * (a + 1) * 256 / (v + 256)

/-- The score of a unit as it stands (R139). -/
def State.score (s : State) (u : Nat) : Nat := scoreOf (s.unit u).valid (ageOf s.epoch (s.unit u))

/-- A scan starts (R144). -/
def State.beginScan (s : State) (scope : ScanScope) : State :=
  { s with scan := some ⟨scope, 0⟩, working := [] }

/-- The continuous start: a scan of scope ALL when the scanner is IDLE, under CONTINUOUS; otherwise nothing (R144). -/
def State.continuousScan (s : State) : State :=
  if s.settings.trigger = .continuous && s.scan.isNone then s.beginScan .all else s

/-- An automatic trigger of scope ALL starts a scan, or is ignored and counted (R143). -/
def State.scanTrigger (s : State) : State :=
  if s.scan.isNone && (s.device = .config || s.device = .running) then s.beginScan .all
  else s.modCounters (fun c => { c with triggersIgnored := bump c.triggersIgnored 1 })

/-- The device state becomes HOLDING: a RUNNING scan is abandoned (R148). -/
def State.abandonScan (s : State) : State :=
  if s.scan.isSome then { s with scan := none, working := [] } else s

/-- A kept unit enters the working list behind every entry whose score is at least its own (R145). -/
def insertWork (e : WorkEntry) : List WorkEntry → List WorkEntry
  | [] => [e]
  | x :: rest => if x.score < e.score then e :: x :: rest else x :: insertWork e rest

/-- The working list keeps its first sixteen entries (R145). -/
def keepWork (e : WorkEntry) (l : List WorkEntry) : List WorkEntry :=
  (insertWork e l).take Config.nominationEntries

/-- A unit with the given owner is in scope (R145, R150). -/
def ScanScope.covers : ScanScope → Option (Nat × Nat) → Bool
  | .all, _ => true
  | .tenant t, some (owner, _) => owner = t
  | .tenant _, none => false

/-- The owner tenant of a unit that has one. -/
def UnitRec.ownerTenant (r : UnitRec) : Nat := (r.owner.getD (0, 0)).1

/-- The completion of a scan (R147). -/
def State.completeScan (s : State) : State :=
  let n := s.working.length
  let s := { s with nominations := s.working.map (fun e => ⟨e, false⟩), working := [] }
  let s := s.post Config.deviceSource .nominationsReady (BitVec.ofNat 32 n)
  let s := { s with scan := none }
  if s.device = .running then s.continuousScan else s

/-- The visit of the unit at the walk position (R145). -/
def State.visitUnit (s : State) (sc : Scan) : State :=
  let u := sc.position
  let r := s.unit u
  let s' := { s with scan := some { sc with position := u + 1 } }
  if r.state = .sealed && sc.scope.covers r.owner && 0 < s.score u then
    { s' with working := keepWork ⟨u, r.ownerTenant, r.valid, s.score u⟩ s.working }
  else s'

/-- The registry tells the scanner that unit u has left SEALED: a visited unit leaves the working list (R146), and a
nomination of it is withdrawn (R141). -/
def State.leftSealed (s : State) (u : Nat) : State :=
  let working :=
    match s.scan with
    | some sc => if u < sc.position then s.working.filter (fun e => e.unit ≠ u) else s.working
    | none => s.working
  { s with
    working := working
    nominations := s.nominations.map (fun n => if n.entry.unit = u then { n with withdrawn := true } else n) }

/-- A SEALED unit becomes RECLAIMING, keeping its record (R123, R133). -/
def State.reclaim (s : State) (u : Nat) : State :=
  (s.modUnit u (fun r => { r with state := .reclaiming })).leftSealed u

/-- The walk of a TAKE_NOMINATION over the nomination list (R150): the entries that remain, and the unit taken. -/
def walkNominations (s : State) (scope : ScanScope) : List Nomination → List Nomination × Option Nat
  | [] => ([], none)
  | n :: rest =>
    let u := n.entry.unit
    if n.withdrawn || (s.unit u).state ≠ .sealed then walkNominations s scope rest
    else if scope.covers (s.unit u).owner then (rest, some u)
    else
      let r := walkNominations s scope rest
      (n :: r.1, r.2)

end Sys2Proof.Machine
end

