-- ==== Sys2Proof/Machine/Media.lean ====
section
/-! DEFINITION. The media dispatcher: die queues, eligibility, dispatch, grants and seal requests (chapter 6, without the
reports). -/

namespace Sys2Proof.Machine

/-- A half holds a placement reservation from its first dispatch until it becomes EMPTY (R103). -/
def State.hasReservation (s : State) (l : Nat) (h : HalfId) : Bool :=
  s.placement.any (fun e => e = .reserved l h)

/-- The in-flight count of a group: its BUSY dies (R102). -/
def State.inFlight (s : State) (g : Nat) : Nat :=
  (List.range Config.groupDies).countP (fun i => (s.die (Config.groupDies * g + i)).busy.isSome)

/-- The head entry needs a placement entry that it does not hold (R103, condition 3). -/
def State.needsRoom (s : State) : DieEntry → Bool
  | .half l h => !s.hasReservation l h
  | .seal _ => false

/-- The head entry of the die's queue is eligible for dispatch (R103). -/
def State.eligible (s : State) (d : Nat) : Bool :=
  match (s.die d).queue with
  | [] => false
  | e :: _ =>
    (s.die d).busy.isNone
      && s.inFlight (groupOf d) < s.settings.groupLimit
      && (!s.needsRoom e || s.placement.length < Config.placementEntries)

/-- Step 1 of a dispatch: a half without a reservation reserves the tail of the placement queue (R104, R10). -/
def State.reserve (s : State) (l : Nat) (h : HalfId) : State :=
  if s.hasReservation l h then s else { s with placement := s.placement ++ [.reserved l h] }

/-- The order formed for an entry of die d (R100): the die's sequence is its tag. -/
def State.formOrder (s : State) (d : Nat) : DieEntry → Order
  | .half l h =>
    let v := s.half l h
    let place := v.assigned.getD (0, 0)
    { seq := (s.die d).seq
      unit := place.1
      kind := .program l h place.2 v.sealMark (v.slots.map Slot.bytes)
      timer := s.settings.programTimeout }
  | .seal u => { seq := (s.die d).seq, unit := u, kind := .seal, timer := s.settings.programTimeout }

/-- Dispatching the head entry of die d (R104). The order's transmission lets MDL_RST go (log 21). -/
def State.dispatch (s : State) (d : Nat) : State :=
  match (s.die d).queue with
  | [] => s
  | e :: rest =>
    let s := match e with | .half l h => s.reserve l h | .seal _ => s
    let order := s.formOrder d e
    let s := s.setDie d { queue := rest, busy := some order, seq := (s.die d).seq + 1#8 }
    let s := match e with | .half l h => s.modHalf l h (fun v => { v with state := .programming }) | .seal _ => s
    { s with
      groupPos := putRow 0 s.groupPos (groupOf d) ((d + 1) % Config.groupDies)
      ordersSent := s.ordersSent ++ [d]
      mdlRst := false }

/-- An entry joins the tail of a die queue; an eligible entry that is the head is dispatched at once (R101, R105). -/
def State.joinDie (s : State) (d : Nat) (e : DieEntry) : State :=
  let q := (s.die d).queue
  let s := s.modDie d (fun v => { v with queue := q ++ [e] })
  if q = [] && s.eligible d then s.dispatch d else s

/-- The dies of group g in circle order from its round-robin pointer (R106). -/
def State.circle (s : State) (g : Nat) : List Nat :=
  (List.range Config.groupDies).map
    (fun i => Config.groupDies * g + (rowOf 0 s.groupPos g + i) % Config.groupDies)

/-- The grants within a group after an order has ended (R106); at most one for each die. -/
def State.grantGroup (g : Nat) : Nat → State → State
  | 0, s => s
  | n + 1, s =>
    match (s.circle g).find? s.eligible with
    | some d => State.grantGroup g n (s.dispatch d)
    | none => s

/-- The order of die d ends: the die is IDLE, and the grants of its group are made (R106). -/
def State.endOrder (s : State) (d : Nat) : State :=
  let s := s.modDie d (fun v => { v with busy := none })
  State.grantGroup (groupOf d) Config.groupDies { s with ordersSent := s.ordersSent.erase d }

/-- The head of die d's queue is a half without a reservation, and eligible (R107). -/
def State.wantsRoom (s : State) (d : Nat) : Bool :=
  s.eligible d && (match (s.die d).queue with | e :: _ => s.needsRoom e | [] => false)

/-- One placement queue entry has left: its room is granted to one half, round-robin over the groups (R107). -/
def State.grantRoom (s : State) : State :=
  let groups := (List.range Config.groupCount).map (fun i => (s.groupPtr + i) % Config.groupCount)
  match (groups.flatMap s.circle).find? s.wantsRoom with
  | some d => { s.dispatch d with groupPtr := (groupOf d + 1) % Config.groupCount }
  | none => s

/-- A seal order of unit u is in flight on its die. -/
def State.sealInFlight (s : State) (u : Nat) : Bool :=
  match (s.die (dieOf u)).busy with
  | some o => o.kind = .seal && o.unit = u
  | none => false

/-- An early seal is asked for: a seal request joins its die queue unless it is there or in flight (R117). -/
def State.requestSeal (s : State) (u : Nat) : State :=
  if (s.die (dieOf u)).queue.any (fun e => e = .seal u) || s.sealInFlight u then s
  else s.joinDie (dieOf u) (.seal u)

/-- The registry makes a unit SEALED at the epoch number (R110, R118); a PARKED one leaves the parked-unit count. -/
def State.sealUnit (s : State) (u : Nat) : State :=
  let parked := if (s.unit u).state = .parked then s.parked - 1 else s.parked
  { s.modUnit u (UnitRec.sealedAt s.epoch) with parked := parked }

/-- The registry makes a unit RECLAIMING with its failed mark set (R111, R119). -/
def State.failUnit (s : State) (u : Nat) : State :=
  let parked := if (s.unit u).state = .parked then s.parked - 1 else s.parked
  { s.modUnit u UnitRec.spoiled with parked := parked }

/-- A stale report is discarded and counted, and MEDIA_STALE is posted (R108). -/
def State.staleReport (s : State) : State :=
  let s := s.modCounters (fun c => { c with staleReports := bump c.staleReports 1 })
  s.post Config.deviceSource .mediaStale (BitVec.ofNat 32 s.counters.staleReports)

/-- The program order that a report answers, with its lane and half: die, sequence and unit match (R108). -/
def State.programOf (s : State) (d : Nat) (seq : BitVec 8) (u : Nat) : Option (Nat × HalfId × Bool) :=
  match (s.die d).busy with
  | some ⟨q, v, .program l h _ mark _, _⟩ => if q = seq ∧ v = u then some (l, h, mark) else none
  | _ => none

/-- A seal order that a report answers: die, sequence and unit match (R108). -/
def State.sealAnswers (s : State) (d : Nat) (seq : BitVec 8) (u : Nat) : Bool :=
  match (s.die d).busy with
  | some ⟨q, v, .seal, _⟩ => q = seq && v = u
  | _ => false

end Sys2Proof.Machine
end

