-- ==== Sys2Proof/Machine/Intake.lean ====
section
/-! DEFINITION. Frames that leave an admission queue early: returned charges (R52), the NO_SPACE report (R53) and the
frames that a removal or a hold ends (R54). -/

namespace Sys2Proof.Machine

/-- The charge of a CHARGED frame that leaves with nothing staged is returned (R52). -/
def State.refund (s : State) (f : Frame) : State :=
  if f.settlement = .charged && f.staged = 0 then
    s.modTenant f.tenant fun v =>
      if v.active.allowance = 0 then v
      else { v with credit := min (v.credit + f.sectors.length) (2 * v.active.allowance) }
  else s

/-- A frame that has left its queue is answered, with its stream and its staged count (R54, R55). -/
def State.endFrame (status : Frame → Status) (s : State) (f : Frame) : State :=
  (s.refund f).reply f.tag (status f) (.write f.stream f.staged)

/-- The frames that p picks leave their queues and are answered in the order given. -/
def State.endFrames (s : State) (p : Frame → Bool) (status : Frame → Status) (order : List Frame → List Frame) : State :=
  (order (s.intake.filter p)).foldl (State.endFrame status) { s with intake := s.intake.filter (fun f => !p f) }

/-- A frame put among frames in ascending tenant id, behind those of its own tenant. -/
def insertByTenant (f : Frame) : List Frame → List Frame
  | [] => [f]
  | g :: rest => if f.tenant < g.tenant then f :: g :: rest else g :: insertByTenant f rest

/-- Frames in ascending tenant id and, within a tenant, in queue order (R54). -/
def byTenant (l : List Frame) : List Frame := l.foldl (fun acc f => insertByTenant f acc) []

/-- The lane engine reports NO_SPACE for stream x of tenant t (R53). -/
def State.noSpaceReport (s : State) (t x : Nat) : State :=
  let p := fun f : Frame => f.tenant = t && f.stream = x && f.staged = 0
  let n := s.intake.countP p
  let s := s.endFrames p (fun _ => .noSpace) id
  let s := s.modTenantCounters t (fun c => { c with noSpace := bump c.noSpace n })
  (s.post t .noSpace (BitVec.ofNat 32 x)).raiseHead t

/-- Every queued frame of tenant t is replied ABORTED in queue order (R54, R167, R171). -/
def State.abortQueue (s : State) (t : Nat) : State :=
  s.endFrames (fun f => f.tenant = t) (fun _ => .aborted) id

end Sys2Proof.Machine
end

