-- ==== Sys2Proof/Machine/Supply.lean ====
section
/-! DEFINITION. The supply pools: the choice of a unit, giving it to a lane, the no-unit policies and low water
(chapter 5, without the commands). -/

namespace Sys2Proof.Machine

/-- The pool with the most units among the groups given, the first of them on a tie; none when all are empty (R89). -/
def State.fullest (s : State) : List Nat → Option Nat
  | [] => none
  | g :: rest =>
    match s.fullest rest with
    | some b => if (s.pool b).length ≤ (s.pool g).length then some g else some b
    | none => if (s.pool g).length = 0 then none else some g

/-- The groups, lowest first. -/
def allGroups : List Nat := List.range Config.groupCount

/-- The groups whose bit is set in a pool mask. -/
def groupsOf (mask : BitVec 8) : List Nat := allGroups.filter (fun g => mask.getLsbD g)

/-- The pool a unit is chosen from under a mask and a no-unit policy (R89, R90). -/
def State.choosePool (s : State) (mask : BitVec 8) (noUnit : NoUnit) : Option Nat :=
  match s.fullest (groupsOf mask) with
  | some g => some g
  | none => if noUnit = .spill then s.fullest allGroups else none

/-- The mask of pools below low water (R96). -/
def State.lowMask (s : State) : BitVec 8 :=
  BitVec.ofNat 8 ((allGroups.filter (fun g => (s.pool g).length < s.settings.lowWater)).map (fun g => 2 ^ g)).sum

/-- The low-water check after the count of pool g has fallen by one (R96, R97). -/
def State.lowWaterCheck (s : State) (g : Nat) : State :=
  let n := (s.pool g).length
  if n < s.settings.lowWater && s.settings.lowWater ≤ n + 1 then
    let s := s.post Config.deviceSource .supplyLow (s.lowMask.setWidth 32)
    if s.settings.trigger = .supplyLow then s.scanTrigger else s
  else s

/-- A lane leaves the unit wait queue by an event other than a service, so the queue is to be served (R94, R95). -/
def State.leaveUnitWait (s : State) (l : Nat) : State :=
  if s.unitWait.contains l then { s with unitWait := s.unitWait.erase l }.raiseService else s

/-- A lane joins the tail of the unit wait queue, or keeps its place there (R91). -/
def State.joinUnitWait (s : State) (l : Nat) : State :=
  if s.unitWait.contains l then s else { s with unitWait := s.unitWait ++ [l] }

/-- A unit becomes the lane's current unit; a lane in UNIT_WAIT becomes ACTIVE (R63), which raises the check of R67. -/
def State.giveUnit (s : State) (l u n : Nat) : State :=
  let waiting := (s.lane l).state = .unitWait
  let s := s.modLane l fun v => { v with current := some (u, n), state := if v.state = .unitWait then .active else v.state }
  if waiting then s.raiseCheck else s

/-- The stream's parked unit is resumed at its recorded next stripe (R63). -/
def State.resumeParked (s : State) (l t x u n : Nat) : State :=
  let s := s.modUnit u (fun r => { r with state := .opened })
  let s := s.modStream t x (fun v => { v with parkedUnit := none })
  { s with parked := s.parked - 1 }.giveUnit l u n

/-- The head unit of pool g is taken for the lane of stream x of tenant t (R89). -/
def State.drawUnit (s : State) (g l t x : Nat) : State :=
  match s.pool g with
  | [] => s
  | u :: rest =>
    let s := s.setPool g rest
    let s := s.modUnit u (UnitRec.takenFor t x)
    let s := s.modTenant t (fun v => { v with owned := v.owned + 1 })
    (s.giveUnit l u 0).lowWaterCheck g

/-- The no-unit policy under which a lane asks: SPILL in HOLDING (R179) and for a CLOSING lane of a tenant whose final
close has been taken (R169); otherwise the active record's. -/
def State.askPolicy (s : State) (l t : Nat) : NoUnit :=
  if s.device = .holding || ((s.tenant t).isClosed && !(s.lane l).isBound) then .spill
  else (s.tenant t).active.noUnit

/-- Step 1 of R92: a FILLING half that holds no real sector becomes EMPTY. -/
def State.dropEmptyFilling (s : State) (l : Nat) : State :=
  match (s.lane l).filling with
  | some h => if (s.half l h).realCount = 0 then s.modHalf l h (fun _ => Half.reset) else s
  | none => s

/-- A lane's request found no unit (R91, R92). In HOLDING nothing is done here: its halves are lost (R179). -/
def State.noUnitFound (s : State) (l t x : Nat) : State :=
  if s.device = .holding then s
  else if (s.lane l).isBound then
    if s.askPolicy l t = .refuse then
      let s := s.dropEmptyFilling l
      let s := (s.modLane l (fun v => { v with state := .unitWait })).joinUnitWait l
      s.noSpaceReport t x
    else (s.modLane l (fun v => { v with state := .unitWait })).joinUnitWait l
  else s.joinUnitWait l

/-- A lane takes a unit: the stream's parked unit, else one of the supply pools (R63). In HOLDING a CLOSING lane does not
resume the parked unit (R179). -/
def State.takeUnit (s : State) (l : Nat) : State :=
  match (s.lane l).stream with
  | none => s
  | some (t, x) =>
    let fromPools :=
      match s.choosePool (s.tenant t).active.poolMask (s.askPolicy l t) with
      | some g => (s.drawUnit g l t x).leaveUnitWait l
      | none => s.noUnitFound l t x
    match (s.stream t x).parkedUnit with
    | some (u, n) =>
      if (s.unit u).state = .parked && (s.device ≠ .holding || (s.lane l).isBound) then
        (s.resumeParked l t x u n).leaveUnitWait l
      else fromPools
    | none => fromPools

end Sys2Proof.Machine
end

