-- ==== Sys2Proof/Machine/Lanes.lean ====
section
/-! DEFINITION. The lane engine: assignment of stripes, padding, parking, closing, eviction, completion, reissue and
binding (chapters 4 and 6, without the commands). -/

namespace Sys2Proof.Machine

/-! ## Full halves -/

/-- The other half of a bound lane becomes FILLING if it is EMPTY (R69, R70). -/
def State.refillOther (s : State) (l : Nat) (h : HalfId) : State :=
  if (s.lane l).isBound && (s.half l h.other).state = .empty then
    s.modHalf l h.other (fun v => { v with state := .filling })
  else s

/-- A FULL half is assigned stripe n of unit u and joins its die queue; stripe 255 sets the seal mark and leaves the lane
without a current unit (R70, R71, R125). -/
def State.assignHalf (s : State) (l : Nat) (h : HalfId) (u n : Nat) : State :=
  let last := n = Config.lastStripe
  let s := s.modHalf l h (fun v => { v with assigned := some (u, n), sealMark := last })
  let s := s.modLane l fun v =>
    { v with current := if last then none else some (u, n + 1), firstFull := none }
  let s := s.modUnit u (fun r => { r with nextStripe := n + 1 })
  s.joinDie (dieOf u) (.half l h)

/-- A half becomes FULL (R70). `closing`: the lane is CLOSING, or is being closed, so that it stages nothing more: no half
becomes FILLING and no new unit is taken at stripe 255 (R71, log 13); nor is one taken in HOLDING (R181). -/
def State.halfFull (s : State) (l : Nat) (h : HalfId) (closing : Bool) : State :=
  let s := s.modHalf l h (fun v => { v with state := .full })
  match (s.lane l).current with
  | some (u, n) =>
    let s := s.assignHalf l h u n
    let s := if closing then s else s.refillOther l h
    if n = Config.lastStripe && !closing && s.device ≠ .holding then s.takeUnit l else s
  | none =>
    let s :=
      if (s.half l h.other).waitsForUnit then s.modLane l (fun v => { v with firstFull := some h.other }) else s
    if closing then s else s.refillOther l h

/-- With both halves FULL and unassigned, the first-full mark names h (R114). -/
def State.markFirst (s : State) (l : Nat) (h : HalfId) : State :=
  if (s.half l h).waitsForUnit && (s.half l h.other).waitsForUnit then
    s.modLane l (fun v => { v with firstFull := some h })
  else s

/-- FULL halves are assigned one after the other (R72, R112). A lane without a current unit takes one first, unless its
last request has just failed (`ask`); if it finds none, the halves left wait (R114). An EMPTY other half of a bound lane
becomes FILLING as at any half that is assigned (R70, log 38). -/
def assignInTurn (l : Nat) : List HalfId → Bool → State → State
  | [], _, s => s
  | h :: rest, ask, s =>
    let s := if (s.lane l).current.isNone && ask then s.takeUnit l else s
    if (s.lane l).current.isSome then
      let s := s.halfFull l h (!(s.lane l).isBound)
      assignInTurn l rest (!s.unitWait.contains l) s
    else s.markFirst l h

/-- The lane's FULL halves without an assignment, the one the first-full mark names first (R72). -/
def Lane.waitingHalves (v : Lane) : List HalfId :=
  let order := if v.firstFull = some .b then [HalfId.b, .a] else [.a, .b]
  order.filter (fun h => (v.half h).waitsForUnit)

/-- A unit has arrived for a lane: its waiting halves are assigned (R72). -/
def State.unitArrived (s : State) (l : Nat) : State :=
  assignInTurn l (s.lane l).waitingHalves true s

/-- Padding completes a FILLING half (R73). -/
def State.padHalf (s : State) (l : Nat) (h : HalfId) (closing : Bool) : State :=
  let n := Config.stripeSlots - (s.half l h).realCount
  let s := s.modHalf l h (fun v => { v with slots := v.slots ++ List.replicate n .pad })
  let s :=
    match (s.lane l).stream with
    | some (t, _) => s.modTenantCounters t (fun c => { c with pad := bump c.pad n })
    | none => s
  s.halfFull l h closing

/-- The FILLING half of a lane, where it holds at least one real sector, is padded (R73). -/
def State.padFilling (s : State) (l : Nat) (closing : Bool) : State :=
  match (s.lane l).filling with
  | some h => if 0 < (s.half l h).realCount then s.padHalf l h closing else s
  | none => s

/-! ## Closing -/

/-- A lane becomes FREE (R76). It is handed to the lane wait queue if a stream waits there (R65), except in HOLDING
(R181). Its fail run is kept (R119). -/
def State.freeLane (s : State) (l : Nat) : State :=
  let s := s.modLane l (fun v => { Lane.reset with failRun := v.failRun })
  if s.laneWait ≠ [] && s.device ≠ .holding then s.raiseFreed l else s

/-- Unit u is parked for stream x of tenant t at stripe n; an older parked unit is displaced and sealed early (R77). -/
def State.park (s : State) (t x u n : Nat) : State :=
  let old := (s.stream t x).parkedUnit
  let parked := if (s.unit u).state = .opened then s.parked + 1 else s.parked
  let s := s.modUnit u UnitRec.setAside
  let s := s.modStream t x (fun v => { v with parkedUnit := some (u, n) })
  let s := { s with parked := parked }
  match old with
  | some (p, _) => s.requestSeal p
  | none => s

/-- The closing of a CLOSING lane with both halves EMPTY completes (R76, R168, R181). -/
def State.closingComplete (s : State) (l : Nat) : State :=
  match (s.lane l).current, (s.lane l).stream with
  | some (u, n), some (t, x) =>
    if (s.tenant t).state = .draining then s.requestSeal u
    else if s.device = .holding || s.parked < s.settings.parkedLimit then (s.park t x u n).freeLane l
    else s.requestSeal u
  | _, _ => s.freeLane l

/-- The closing of lane l completes if it is CLOSING and both halves are EMPTY. -/
def State.closeIfDrained (s : State) (l : Nat) : State :=
  if (s.lane l).state = .closing && (s.lane l).isDrained then s.closingComplete l else s

/-- Steps 1 to 3 of R74: the filling half is padded or made EMPTY, the stream becomes UNBOUND, the lane becomes CLOSING. -/
def State.detach (s : State) (l t x : Nat) : State :=
  let s := (s.padFilling l true).dropEmptyFilling l
  let s := s.modStream t x (fun v => { v with binding := .unbound })
  let s := s.modLane l (fun v => { v with state := .closing })
  let s := { s with recency := s.recency.erase l }
  s.modTenant t (fun v => { v with bound := v.bound - 1 })

/-- R75: the counts of an eviction. -/
def State.countEviction (s : State) (t : Nat) : State :=
  s.modTenant t fun v =>
    { v with
      counters := { v.counters with evictions := bump v.counters.evictions 1 }
      epochEvictions := min (v.epochEvictions + 1) 65535 }

/-- Eviction of a bound lane (R74, R75). -/
def State.evict (s : State) (l : Nat) : State :=
  match (s.lane l).stream with
  | none => s
  | some (t, x) =>
    let s := (s.detach l t x).countEviction t
    let s := if (s.lane l).waitingHalves = [] then s.leaveUnitWait l else s
    (s.closeIfDrained l).raiseHead t

/-- The closing of a bound lane at the final close (R169): it leaves the unit wait queue, and a FULL half without an
assignment takes a unit as SPILL. -/
def State.closeFinally (s : State) (l : Nat) : State :=
  match (s.lane l).stream with
  | none => s
  | some (t, x) =>
    let s := (s.detach l t x).leaveUnitWait l
    let s := assignInTurn l (s.lane l).waitingHalves true s
    s.closeIfDrained l

/-! ## Completion and loss of a half -/

/-- A flush record is lowered by one half; at 0 it is answered and leaves, and its control slot is free (R84, R85). -/
def State.lowerFlush (lost : Bool) (s : State) (slot : Nat) : State :=
  match s.flushes.find? (fun f => f.slot = slot) with
  | none => s
  | some f =>
    let f' := { f with awaited := f.awaited - 1, lost := f.lost || lost }
    if f'.awaited = 0 then
      { s with flushes := s.flushes.filter (fun g => g.slot ≠ slot) }.reply f.tag
        (if f'.lost then .holdAbort else .ok) (.flush f.started)
    else { s with flushes := s.flushes.map (fun g => if g.slot = slot then f' else g) }

/-- A half becomes EMPTY, and the flush records that reference it are lowered (R80, R180), in the order in which the
references were added (log 37). -/
def State.emptyHalf (s : State) (l : Nat) (h : HalfId) (lost : Bool) : State :=
  let refs := (s.half l h).refs
  refs.foldl (State.lowerFlush lost) (s.modHalf l h (fun _ => Half.reset))

/-- One more slot joins the extents made so far, the latest first (R80). -/
def addToExtents (u n : Nat) (made : List Extent) (slot : Slot × Nat) : List Extent :=
  match slot.1 with
  | .pad => made
  | .real _ tag index _ =>
    match made with
    | e :: rest =>
      if e.writeTag = tag && index = e.firstSector + e.count then { e with count := e.count + 1 } :: rest
      else ⟨tag, index, 1, u, n, slot.2⟩ :: made
    | [] => [⟨tag, index, 1, u, n, slot.2⟩]

/-- The extents of a half's slots at stripe n of unit u, in slot order (R80). -/
def extentsOf (u n : Nat) (slots : List Slot) : List Extent :=
  (slots.zipIdx.foldl (addToExtents u n) []).reverse

/-- The placement entry reserved for the half's order becomes READY (R10). -/
def State.fillEntry (s : State) (l : Nat) (h : HalfId) (t x : Nat) (extents : List Extent) : State :=
  { s with placement := s.placement.map (fun e : PlaceEntry => if e = PlaceEntry.reserved l h then PlaceEntry.ready t x extents else e) }

/-- Steps 1 to 4 of R80 for a half assigned stripe n of unit u. -/
def State.recordPlaced (s : State) (l : Nat) (h : HalfId) (t x u n : Nat) : State :=
  let v := s.half l h
  let real := v.realCount
  let s := s.modUnit u (fun r => { r with programmed := r.programmed + real, valid := r.valid + real })
  let s := s.fillEntry l h t x (extentsOf u n v.slots)
  let s := s.modTenantCounters t (fun c => { c with placed := bump c.placed real })
  s.modStream t x (fun c => { c with placed := bump c.placed real })

/-- R81: what follows when half h of lane l has become EMPTY. -/
def State.afterEmpty (s : State) (l : Nat) (h : HalfId) : State :=
  if (s.lane l).isBound then
    if (s.lane l).filling.isNone then
      let s := s.modHalf l h (fun v => { v with state := .filling })
      match (s.lane l).stream with
      | some (t, _) => s.raiseHead t
      | none => s
    else s
  else s.closeIfDrained l

/-- The lane engine completes a programmed half (R80, R81). -/
def State.completeHalf (s : State) (l : Nat) (h : HalfId) : State :=
  let place := (s.half l h).assigned.getD (0, 0)
  let s :=
    match (s.lane l).stream with
    | some (t, x) => s.recordPlaced l h t x place.1 place.2
    | none => s
  (s.emptyHalf l h false).afterEmpty l h

/-- A half is lost in a hold (R180): counted, made EMPTY, and its RESERVED entry leaves the placement queue. -/
def State.loseHalf (l : Nat) (s : State) (h : HalfId) : State :=
  let real := (s.half l h).realCount
  let s := { s with lost := bump s.lost real }
  let s := s.modCounters (fun c => { c with sectorsLost := bump c.sectorsLost real })
  let s := s.emptyHalf l h true
  if s.hasReservation l h then
    { s with placement := s.placement.filter (fun e => e ≠ PlaceEntry.reserved l h) }.grantRoom
  else s

/-- In HOLDING, the FULL halves for which no unit was found are lost (R179, R180). A bound lane stays in UNIT_WAIT in the
unit wait queue (log 30); a CLOSING lane leaves it, and its closing may complete. -/
def State.loseWaiting (s : State) (l : Nat) : State :=
  match (s.lane l).waitingHalves with
  | [] => s
  | waiting =>
    let s := waiting.foldl (State.loseHalf l) s
    let s := s.modLane l (fun v => { v with firstFull := none })
    if (s.lane l).isBound then (s.modLane l (fun v => { v with state := .unitWait })).joinUnitWait l
    else (s.leaveUnitWait l).closeIfDrained l

/-- A lane with FULL halves without an assignment takes units for them in HOLDING, or loses them (R179). -/
def State.holdTake (s : State) (l : Nat) : State :=
  (assignInTurn l (s.lane l).waitingHalves true s).loseWaiting l

/-! ## Reissue -/

/-- Step 1 of R112: the failed half and its successor lose their assignment to unit u, and the lane lets go of u. -/
def State.releaseFailed (s : State) (l : Nat) (h : HalfId) (u : Nat) : State :=
  let o := h.other
  let isSuccessor :=
    (s.half l o).state = .full && (match (s.half l o).assigned with | some (v, _) => v = u | none => false)
  let s := s.modHalf l h (fun v => { v with state := .full, assigned := none, sealMark := false })
  let s :=
    if isSuccessor then
      let s := s.modDie (dieOf u) (fun v => { v with queue := v.queue.filter (fun e => e ≠ DieEntry.half l o) })
      s.modHalf l o (fun v => { v with assigned := none, sealMark := false })
    else s
  s.modLane l fun v =>
    match v.current with
    | some (c, _) => if c = u then { v with current := none } else v
    | none => v

/-- Reissue of a failed half h of lane l (R112, R113, R114; in HOLDING R179 and R180). A half that waited for a unit
before the failure is assigned behind it (log 12). -/
def State.reissue (s : State) (l : Nat) (h : HalfId) (u : Nat) : State :=
  let s := s.releaseFailed l h u
  let order := if (s.half l h.other).waitsForUnit then [h, h.other] else [h]
  let s := assignInTurn l order true s
  if s.device = .holding then s.loseWaiting l else s

/-! ## Binding -/

/-- The head of t's queue that waits for a lane on stream x goes on to the staging step, now that the stream is bound
(R48), where its tenant's heads are served (R43). -/
def State.noteBound (s : State) (t x : Nat) : State :=
  let v := (s.tenant t).state
  if s.device = .running && (v = .active || v = .draining) then
    s.modHead t (fun f => if f.step = .lane && f.stream = x then { f with step := .staging } else f)
  else s

/-- FREE lane l is bound to stream x of tenant t (R64). -/
def State.bindLane (s : State) (l t x : Nat) : State :=
  let s := s.modLane l fun v =>
    { v with state := .unitWait, stream := some (t, x), halfA := { v.halfA with state := .filling } }
  let s := s.modStream t x (fun v => { v with binding := .bound l })
  let s := s.modTenant t (fun v => { v with bound := v.bound + 1 })
  let s := { s with recency := s.recency ++ [l] }
  (s.takeUnit l).noteBound t x

/-- The tenant's least recent lane is evicted when it holds as many bound lanes as its quota (R65, R66). Where it so leaves the
unit wait queue, the service is made after the binding that follows (log 35). -/
def State.selfEvict (s : State) (t : Nat) : State :=
  match s.leastRecentOf t with
  | some l => s.evict l
  | none => s

/-- The tenant holds as many bound lanes as its quota. -/
def Tenant.atQuota (v : Tenant) : Bool := v.active.laneQuota ≤ v.bound

/-- FREE lane l goes to the head of the lane wait queue (R65); not in HOLDING (R181). -/
def State.handOver (s : State) (l : Nat) : State :=
  match s.laneWait with
  | [] => s
  | (t, x) :: rest =>
    if (s.lane l).state = .free && s.device ≠ .holding then
      let s := { s with laneWait := rest }
      let s := if (s.tenant t).atQuota then s.selfEvict t else s
      s.bindLane l t x
    else s

/-- After a stream has joined the lane wait queue: R65 for a FREE lane, then the eviction check (R66). -/
def State.afterJoin (s : State) : State :=
  match s.lowestFree with
  | some l => (s.raiseFreed l).raiseCheck
  | none => s.raiseCheck

/-- A bind request for the UNBOUND stream x of tenant t (R66). -/
def State.bindRequest (s : State) (t x : Nat) : State :=
  if (s.tenant t).atQuota then ((s.selfEvict t).joinLaneWait t x).afterJoin
  else
    match s.laneWait, s.lowestFree with
    | [], some l => s.bindLane l t x
    | _, _ => (s.joinLaneWait t x).afterJoin

/-- The floor that protects a tenant's lanes at the eviction check: 0 while it is SUSPENDED (R34, R67). -/
def Tenant.guardFloor (v : Tenant) : Nat := if v.state = .suspended then 0 else v.active.laneFloor

/-- Lane l may be chosen by the eviction check (R67). -/
def State.isVictim (s : State) (l : Nat) : Bool :=
  (s.lane l).state = .active
    && (match (s.lane l).stream with
        | some (t, _) => (s.tenant t).guardFloor < (s.tenant t).bound
        | none => false)

/-- The number of CLOSING lanes. -/
def State.closingCount (s : State) : Nat := s.lanes.countP (fun row => row.2.state = .closing)

/-- One comparison of the eviction check (R67): a victim is evicted and the check stays raised, or the check ends. It is
not made in HOLDING (R181). -/
def State.checkOnce (s : State) : State :=
  let ended := { s with work := { s.work with check := false } }
  if s.device ≠ .holding && s.closingCount < s.laneWait.length then
    match s.recency.find? s.isVictim with
    | some l => s.evict l
    | none => ended
  else ended

/-- One look of a service at the head of the unit wait queue (R95): it is given a unit and the service goes on, or the
service ends. -/
def State.serviceOnce (s : State) : State :=
  let ended := { s with work := { s.work with serveUnits := false } }
  match s.unitWait with
  | [] => ended
  | l :: rest =>
    match (s.lane l).stream with
    | none => ended
    | some (t, x) =>
      let noUnit := if (s.tenant t).isClosed && !(s.lane l).isBound then .spill else (s.tenant t).active.noUnit
      match s.choosePool (s.tenant t).active.poolMask noUnit with
      | some g => ({ s with unitWait := rest }.drawUnit g l t x).unitArrived l
      | none => ended

end Sys2Proof.Machine
end

