-- ==== Sys2Proof/Machine/Admission.lean ====
section
/-! DEFINITION. Serving the head of an admission queue (R43 to R45, R48) and the offer of a sector (R46, R47, R68, R93). -/

namespace Sys2Proof.Machine

/-- The tenant's head is served: the device is RUNNING and the tenant ACTIVE or DRAINING (R43). -/
def State.servesHead (s : State) (t : Nat) : Bool :=
  s.device = .running && ((s.tenant t).state = .active || (s.tenant t).state = .draining)

/-- The head of t's queue stands at the given step (log 25). -/
def State.headAt (s : State) (t : Nat) (step : HeadStep) : State := s.modHead t (fun f => { f with step := step })

/-- A frame that is served again: one that waits for a half stays there until its lane has room (R48), and any other starts
from the credit step, which it passes if it is settled (R43). -/
def Frame.again (f : Frame) : Frame := if f.step = .half then f else { f with step := .queued }

/-- The head of t's queue is to be served again, whatever it waits for (R48). -/
def State.serveAgain (s : State) (t : Nat) : State := (s.modHead t Frame.again).raiseHead t

/-- A frame that is settled EXEMPT (R44). -/
def Tenant.exempts (v : Tenant) (f : Frame) : Bool :=
  f.relocation || v.state = .draining || v.active.allowance = 0

/-- The wait for credit: counted once for a frame (R44). -/
def State.waitForCredit (s : State) (t : Nat) (f : Frame) : State :=
  let s := s.modHead t (fun g => { g with step := .credit, creditWaited := true })
  if f.creditWaited then s
  else s.modTenantCounters t (fun c => { c with creditWaits := bump c.creditWaits 1 })

/-- The credit step of the head f (R44). -/
def State.creditStep (s : State) (t : Nat) (f : Frame) : State :=
  if f.settlement ≠ .unsettled then s.headAt t .queued
  else if (s.tenant t).exempts f then s.modHead t (fun g => { g with settlement := .exempt, step := .queued })
  else if f.sectors.length ≤ (s.tenant t).credit then
    (s.modTenant t (fun v => { v with credit := v.credit - f.sectors.length })).modHead t
      (fun g => { g with settlement := .charged, step := .queued })
  else s.waitForCredit t f

/-- The lane step of the head of t's queue, a frame of stream x (R45). -/
def State.laneStep (s : State) (t x : Nat) : State :=
  match (s.stream t x).binding with
  | .bound _ => s.headAt t .staging
  | .waiting => s.headAt t .lane
  | .unbound => (s.headAt t .lane).bindRequest t x

/-- The service of a head that waits for a half: it goes on when its lane has room, goes back to the lane step when the
stream has lost its lane, and otherwise waits (R46, R48). -/
def State.halfStep (s : State) (t x : Nat) : State :=
  match (s.stream t x).binding with
  | .bound l => if (s.lane l).room.isSome then s.headAt t .staging else s
  | _ => s.laneStep t x

/-- The credit step and then, unless the head waits there, the lane step. -/
def State.settleAndBind (s : State) (t : Nat) (f : Frame) : State :=
  let s := s.creditStep t f
  match s.headOf t with
  | some g => if g.step = .credit then s else s.laneStep t f.stream
  | none => s

/-- The head of tenant t's queue is served (R43). -/
def State.serveHead (s : State) (t : Nat) : State :=
  if s.servesHead t then
    match s.headOf t with
    | none => s
    | some f =>
      match f.step with
      | .staging => s
      | .half => s.halfStep t f.stream
      | _ => s.settleAndBind t f
  else s

/-! ## Offers -/

/-- The frame at the head of t's queue is complete (R47): the counters rise, ACCEPTED is formed, the frame leaves. -/
def State.acceptHead (s : State) (t : Nat) : State :=
  match s.headOf t with
  | none => s
  | some f =>
    let n := f.sectors.length
    let s := s.modTenantCounters t (fun c => { c with accepted := bump c.accepted n })
    let s := s.modStream t f.stream (fun c => { c with accepted := bump c.accepted n })
    ((s.reply f.tag .accepted (.write f.stream n)).dropHead t).raiseHead t

/-- Lane l moves to the tail of the recency list (R61). -/
def State.touchLane (s : State) (l : Nat) : State := { s with recency := s.recency.erase l ++ [l] }

/-- The next sector of f is staged into half h of lane l (R68); the 16th slot makes the half FULL (R70), and the last
sector completes the frame (R47). What a half that fills brings about, NO_SPACE replies among it, comes before the frame's
ACCEPTED (log 36). -/
def State.stage (s : State) (t : Nat) (f : Frame) (l : Nat) (h : HalfId) : State :=
  let slot := Slot.real t f.writeTag f.staged (f.sectors.getD f.staged 0#32768)
  let s := s.modHalf l h (fun v => { v with state := .filling, slots := v.slots ++ [slot] })
  let s := (s.touchLane l).modHead t (fun g => { g with staged := f.staged + 1 })
  let s := if (s.half l h).slots.length = Config.stripeSlots then s.halfFull l h false else s
  if f.staged + 1 = f.sectors.length then s.acceptHead t else s

/-- Lane l does not stage the first sector of a frame: it is bound, in the unit wait queue, and under REFUSE (R93). -/
def State.refusesFirst (s : State) (t l : Nat) : Bool :=
  (s.lane l).isBound && s.unitWait.contains l && (s.tenant t).active.noUnit = .refuse

/-- The head f of tenant t's queue offers its next sector to lane l (R46, R68, R93). -/
def State.offerTo (s : State) (t : Nat) (f : Frame) (l : Nat) : State :=
  if f.staged = 0 && s.refusesFirst t l then s.noSpaceReport t f.stream
  else
    match (s.lane l).room with
    | some h => s.stage t f l h
    | none => s.headAt t .half

/-- The admission unit offers the next sector of the head of tenant t's queue, where the head stands at the staging step
(R46). Otherwise there is no offer (log 2). -/
def State.offer (s : State) (t : Nat) : State :=
  match s.headOf t with
  | none => s
  | some f =>
    if s.servesHead t && f.step = .staging then
      match (s.stream t f.stream).binding with
      | .bound l => s.offerTo t f l
      | _ => s.serveAgain t
    else s

end Sys2Proof.Machine
end

