-- ==== Sys2Proof/Machine/Removal.lean ====
section
/-! DEFINITION. Tenant removal: the final close, the clearing of a tenant's streams, completion of a drain, and the change
to VACANT (chapter 10, R22). -/

namespace Sys2Proof.Machine

/-- The stream indices of a tenant. -/
def allStreams : List Nat := List.range Config.streamCount

/-- A stream's parked unit is displaced and a seal request for it joins its die queue (R170). -/
def State.displaceParked (t : Nat) (s : State) (x : Nat) : State :=
  match (s.stream t x).parkedUnit with
  | some (u, _) => (s.modStream t x (fun v => { v with parkedUnit := none })).requestSeal u
  | none => s

/-- One stream is cleared at the final close (R170). -/
def State.clearStream (t : Nat) (s : State) (x : Nat) : State :=
  let s := { s with laneWait := s.laneWait.filter (fun e => e ≠ (t, x)) }
  (s.displaceParked t x).modStream t x (fun v => { v with binding := .unbound })

/-- The drain of tenant t is in phase CLOSED, with no deadline timer (R169). -/
def State.markClosed (s : State) (t : Nat) : State :=
  s.modTenant t (fun v => { v with drain := v.drain.map (fun d => { d with phase := .closed, timer := .absent }) })

/-- The bound lanes of tenant t, in ascending id. -/
def State.boundLanesOf (s : State) (t : Nat) : List Nat :=
  s.laneIds.filter (fun l => (s.lane l).isBound && (s.lane l).belongsTo t)

/-- The final close of tenant t (R169, R170). A lane already CLOSING in the unit wait queue is left as it is; no service is
made for it here (log 40). The lanes that leave the queue raise one service, made after all of them (log 35). -/
def State.finalClose (s : State) (t : Nat) : State :=
  let s := s.markClosed t
  let s := (s.boundLanesOf t).foldl State.closeFinally s
  (allStreams.foldl (State.clearStream t) s).raiseCheck

/-- A tenant whose final close is due: DRAINING in phase FRAMES with an empty queue, the device not HOLDING (R169, R174). Of
several, the one with the lowest tenant id comes first (log 41). -/
def State.closeDue (s : State) : Option Nat :=
  if s.device = .holding then none
  else (rowKeys s.tenants).find? (fun t => (s.tenant t).inFrames && s.queueOf t = [])

/-- Stream x of tenant t is UNBOUND with no parked unit; its counters are kept (R22). -/
def State.resetStream (t : Nat) (s : State) (x : Nat) : State :=
  s.modStream t x (fun v => { v with binding := .unbound, parkedUnit := none })

/-- Tenant t becomes VACANT (R22). -/
def State.vacate (s : State) (t : Nat) : State :=
  (allStreams.foldl (State.resetStream t) s).modTenant t fun v =>
    { v with state := .vacant, pendingPolicy := none, watch := ⟨0, .none⟩, drain := none }

/-- The unit is OPEN or PARKED and owned by tenant t. -/
def UnitRec.heldOpenBy (r : UnitRec) (t : Nat) : Bool :=
  r.isOpen && (match r.owner with | some (o, _) => o = t | none => false)

/-- The drain of tenant t is complete (R173). -/
def State.drained (s : State) (t : Nat) : Bool :=
  (s.tenant t).isClosed && s.lanes.all (fun row => !row.2.belongsTo t) && s.units.all (fun row => !row.2.heldOpenBy t)

/-- The completion of tenant t's drain (R173). -/
def State.completeDrain (s : State) (t : Nat) : State :=
  if s.drained t then
    let s := s.modTenant t (fun v => { v with state := .removed, drain := none })
    let s := s.post t .drained 0#32
    if (s.tenant t).owned = 0 then s.vacate t else s
  else s

/-- Every drain that is complete is completed, in ascending tenant id (log 20). -/
def State.completeDrains (s : State) : State := (rowKeys s.tenants).foldl State.completeDrain s

end Sys2Proof.Machine
end

