-- ==== Sys2Proof/Machine/HoldFlush.lean ====
section
/-! DEFINITION. The hold-up flush: entry to HOLDING, its end, and the return to RUNNING (chapter 11, without the
commands). -/

namespace Sys2Proof.Machine

/-- A drain deadline timer stops and keeps its time remaining (R171). -/
def DrainTimer.stop : DrainTimer → DrainTimer
  | .running left => .stopped left
  | other => other

/-- Every drain deadline timer stops at entry to HOLDING (R171, R178). -/
def State.stopTimer (s : State) (t : Nat) : State :=
  if (s.tenant t).drain.isSome then
    s.modTenant t (fun v => { v with drain := v.drain.map (fun d => { d with timer := d.timer.stop }) })
  else s

/-- The bound lanes, in ascending id. -/
def State.boundLanes (s : State) : List Nat := s.laneIds.filter (fun l => (s.lane l).isBound)

/-- The status of a frame that entry to HOLDING ends (R54). -/
def holdStatus (f : Frame) : Status := if f.staged = 0 then .holdAbort else .holdPartial

/-- One lane of the unit wait queue at entry to HOLDING: with a FULL half without an assignment it takes a unit or loses
the half; any other lane is passed over (R178, step 5). -/
def State.holdWalk (s : State) (l : Nat) : State :=
  if (s.lane l).waitingHalves = [] then s else s.holdTake l

/-- A lane's FILLING half is padded at entry to HOLDING (R178, step 4). -/
def State.holdPad (s : State) (l : Nat) : State := s.padFilling l false

/-- Step 1 of R178: the state, the lost count and the timers. -/
def State.holdStart (s : State) : State :=
  (rowKeys s.tenants).foldl State.stopTimer { s with device := .holding, lost := 0, epochTimer := none }

/-- Entry to HOLDING, steps 1 to 5 (R178). The lanes that leave the unit wait queue in the walk of step 5 raise one service, made
after the walk and before the finish check of step 6 (log 35). -/
def State.enterHolding (s : State) : State :=
  let s := s.holdStart.endFrames (fun _ => true) holdStatus byTenant
  let s := s.abandonScan
  let s := s.boundLanes.foldl State.holdPad s
  s.unitWait.foldl State.holdWalk s

/-- The half is FULL or PROGRAMMING. -/
def Half.isBusy (v : Half) : Bool := v.state = .full || v.state = .programming

/-- No half of any lane is FULL or PROGRAMMING and no lane is CLOSING (R181). -/
def State.flushDone (s : State) : Bool :=
  s.lanes.all (fun row => !row.2.halfA.isBusy && !row.2.halfB.isBusy && row.2.state ≠ .closing)

/-- Step 1 of the finish for one bound lane (R181): its unit is parked, the lane becomes FREE, its stream UNBOUND. A lane that
so leaves the unit wait queue raises no service (log 39). -/
def State.holdFree (s : State) (l : Nat) : State :=
  match (s.lane l).stream with
  | none => s
  | some (t, x) =>
    let s := match (s.lane l).current with | some (u, n) => s.park t x u n | none => s
    let s := s.modLane l (fun v => { Lane.reset with failRun := v.failRun })
    let s := { s with recency := s.recency.erase l, unitWait := s.unitWait.erase l }
    let s := s.modStream t x (fun v => { v with binding := .unbound })
    s.modTenant t (fun v => { v with bound := v.bound - 1 })

/-- A stream that waits for a lane becomes UNBOUND at the finish (R181, step 2). -/
def State.holdUnbind (s : State) (e : Nat × Nat) : State :=
  s.modStream e.1 e.2 (fun v => { v with binding := .unbound })

/-- Step 3 of the finish for one tenant (R174, R181). -/
def State.holdDrain (s : State) (t : Nat) : State :=
  if (s.tenant t).inFrames then s.finalClose t
  else if (s.tenant t).isClosed then allStreams.foldl (State.displaceParked t) s
  else s

/-- The device returns to RUNNING (R182, R153, R144). -/
def State.returnToRunning (s : State) : State :=
  { s with device := .running, epochTimer := some s.settings.epochLength }.continuousScan

/-- The end of the hold-up flush (R181). The drains are carried on in ascending tenant id (log 41), and no service of the unit
wait queue is made for the lanes that leave it (log 39). -/
def State.finishHold (s : State) : State :=
  let s := s.boundLanes.foldl State.holdFree s
  let s := { s.laneWait.foldl State.holdUnbind s with laneWait := [], unitWait := [] }
  let s := (rowKeys s.tenants).foldl State.holdDrain s
  let s := s.post Config.deviceSource .holdDone (BitVec.ofNat 32 s.lost)
  if s.settings.autoResume && !s.holdLevel then s.returnToRunning else { s with device := .held }

end Sys2Proof.Machine
end

