-- ==== Sys2Proof/Machine/Cascade.lean ====
section
/-! DEFINITION. The internal events that a command raises, handled to the end before the next command (log 8). -/

namespace Sys2Proof.Machine

/-- The next internal event of the supply pools and the lane engine, handled: a service of the unit wait queue first, then a
FREE lane's hand-over, then the eviction check (log 8). -/
def State.laneStepOnce (s : State) : Option State :=
  if s.work.serveUnits then some s.serviceOnce
  else
    match s.work.freed with
    | l :: rest => some ({ s with work := { s.work with freed := rest } }.handOver l)
    | [] => if s.work.check then some s.checkOnce else none

/-- The next internal event, handled: those of the pools and the lane engine first, then the service of a queue head, and a
final close that has become due (log 8). -/
def State.workStep (s : State) : Option State :=
  match s.laneStepOnce with
  | some t => some t
  | none =>
    match s.work.heads with
    | t :: rest => some ({ s with work := { s.work with heads := rest } }.serveHead t)
    | [] => s.closeDue.map s.finalClose

/-- Internal events, one after the other, until none is left (log 9). -/
def State.cascade (next : State → Option State) : Nat → State → State
  | 0, s => s
  | n + 1, s =>
    match next s with
    | some s' => State.cascade next n s'
    | none => s

/-- The internal events of the pools and the lane engine that wait are handled; queue heads wait on. -/
def State.runLanes (s : State) : State := State.cascade State.laneStepOnce Config.cascadeFuel s

/-- Every internal event that waits is handled. -/
def State.runWork (s : State) : State := State.cascade State.workStep Config.cascadeFuel s

/-- The end of a command: the internal events, the end of a hold-up flush that nothing holds any more, and the drains
that are complete (log 20). -/
def State.conclude (s : State) : State :=
  let s := s.runWork
  let s := if s.device = .holding && s.flushDone then s.finishHold.runWork else s
  s.completeDrains

end Sys2Proof.Machine
end

