-- ==== Sys2Proof/WellFormed.lean ====
section
/-! DEFINITION. A command is well formed when its payload has the length its kind implies (R2). A frame of any other
length is no request: the receiver discards it (R1). -/

namespace Sys2Proof

/-- The entries that follow a count byte: as many as it says when it says 1 to 64, and none otherwise (R2). -/
def listFits (count : BitVec 8) (entries : Nat) : Bool :=
  if 1 ≤ count.toNat ∧ count.toNat ≤ Config.listEntries then entries = count.toNat else entries = 0

/-- The sectors that follow a write header: as many as it says when it says 1 to 16, and none otherwise (R2). -/
def sectorsFit (count : BitVec 8) (sectors : Nat) : Bool :=
  if 1 ≤ count.toNat ∧ count.toNat ≤ Config.stripeSlots then sectors = count.toNat else sectors = 0

/-- A policy record has one stream map entry for each of the sixteen hints (section 2.2). -/
def RawPolicy.fits (raw : RawPolicy) : Bool := raw.streamMap.length = 16

/-- The payload has the length its kind implies. -/
def Instr.wellFormed : Instr → Bool
  | .write _ _ _ _ _ count sectors => sectorsFit count sectors.length
  | .configure _ _ => true
  | .start _ => true
  | .declareUnits _ count entries => listFits count entries.length
  | .supplyUnits _ count entries => listFits count entries.length
  | .releaseUnits _ _ count entries => listFits count entries.length
  | .invalidate _ count entries => listFits count entries.length
  | .reclaimUnit _ _ => true
  | .admitTenant _ _ raw => raw.fits
  | .setPolicy _ _ _ raw => raw.fits
  | .cancelPending _ _ => true
  | .suspendTenant _ _ => true
  | .resumeTenant _ _ => true
  | .removeTenant _ _ _ => true
  | .flushTenant _ _ => true
  | .startScan _ _ _ => true
  | .takeNomination _ _ _ => true
  | .forceEpoch _ _ => true
  | .policyHold _ _ => true
  | .grantCredits _ _ => true
  | .query _ _ _ => true
  | .resumeFromHold _ => true
  | .deviceReset _ => true
  | .deviceResetTakesEffect _ => true
  | .resetN _ => true
  | .linkResync _ => true
  | .resyncDelimiter => true
  | .unassignedFrame _ => true
  | .frameDiscard _ => true
  | .sendReply => true
  | .sendPlacementReport => true
  | .sendNotice => true
  | .sectorOffer _ => true
  | .programDone _ _ _ => true
  | .mediaReportCorrupt => true
  | .programFail _ _ _ => true
  | .programTimeout _ => true
  | .sealDone _ _ _ => true
  | .sealFail _ _ _ => true
  | .sealTimeout _ => true
  | .epochBoundary => true
  | .scanVisit => true
  | .drainDeadlineExpiry _ => true
  | .holdAsserted => true
  | .holdDeasserted => true

end Sys2Proof
end

