-- ==== Sys2Proof/Machine/Tenants.lean ====
section
/-! DEFINITION. The tenant requests of chapter 2, REMOVE_TENANT and the drain deadline (chapter 10), and FLUSH_TENANT
(section 4.7). -/

namespace Sys2Proof.Machine

/-- The first two checks of a tenant request (R26). -/
def State.tenantRefusal (s : State) (tenant : BitVec 16) : Option Status :=
  if s.device = .holding then some .wrongState
  else if !tenantIdOk tenant then some .badRequest
  else none

/-- A tenant request that has passed the first two checks goes on; any other is answered with its refusal (R26). -/
def State.tenantRequest (s : State) (tag tenant : BitVec 16) (act : State → State) : State :=
  match s.tenantRefusal tenant with
  | some status => s.reply tag status
  | none => act s

/-! ## ADMIT_TENANT -/

/-- The tenant and stream counters of an admitted tenant are 0, and its streams UNBOUND with no parked unit (R27). -/
def State.clearStreams (s : State) (t : Nat) : State :=
  (List.range Config.streamCount).foldl (fun s x => s.setStream t x StreamCtx.reset) s

/-- A VACANT tenant is admitted under the record p (R27). The balance is set to the allowance (log 33). -/
def State.enrol (s : State) (t : Nat) (p : Policy) : State :=
  (s.clearStreams t).modTenant t fun v =>
    { v with
      state := .active
      active := p
      pendingPolicy := none
      credit := p.allowance
      epochEvictions := 0
      watch := ⟨0, .none⟩
      counters := TenantCounters.reset }

/-- ADMIT_TENANT, taken (R26, R27). -/
def State.takeAdmit (tag tenant : BitVec 16) (raw : RawPolicy) (s : State) : State :=
  s.tenantRequest tag tenant fun s =>
    let t := tenant.toNat
    match (s.tenant t).state with
    | .vacant =>
      match policyOf raw with
      | none => s.reply tag .badRequest
      | some p =>
        if Config.floorLimit < s.floorSum + p.laneFloor then s.reply tag .noCapacity
        else (s.enrol t p).reply tag .ok (.policy p)
    | .removed => s.reply tag .unitsRemain
    | _ => s.reply tag .tenantState

/-- ADMIT_TENANT. -/
def execAdmitTenant (tag tenant : BitVec 16) (raw : RawPolicy) (s : State) : Host.Outcome State Fault Refusal :=
  .next (s.control tag raw.fits (State.takeAdmit tag tenant raw))

/-! ## SET_POLICY -/

/-- The balance when a record becomes active (R29, R49). -/
def creditUnder (old new : Policy) (b : Nat) : Nat :=
  if new.allowance = 0 then b
  else if old.allowance = 0 then new.allowance
  else if new.allowance < old.allowance then min b (2 * new.allowance)
  else b

/-- Evictions of the tenant's least recent lanes, n at most, while it holds more than its quota (R30). -/
def State.quotaEvict (t : Nat) : Nat → State → State
  | 0, s => s
  | n + 1, s => if (s.tenant t).active.laneQuota < (s.tenant t).bound then State.quotaEvict t n (s.selfEvict t) else s

/-- A lane of tenant t is in the unit wait queue. -/
def State.waitsForUnit (s : State) (t : Nat) : Bool := s.unitWait.any (fun l => (s.lane l).belongsTo t)

/-- A watch field differs (R29). -/
def Policy.watchDiffers (old new : Policy) : Bool :=
  old.watchSource ≠ new.watchSource || old.watchLow ≠ new.watchLow || old.watchHigh ≠ new.watchHigh
    || old.watchDepth ≠ new.watchDepth

/-- The tenant context under a new active record: its balance, and its watch record where a watch field differs (R29). No
other handover reads or writes these two. -/
def Tenant.under (new : Policy) (v : Tenant) : Tenant :=
  { v with
    active := new
    credit := creditUnder v.active new v.credit
    watch := if v.active.watchDiffers new then ⟨0, .none⟩ else v.watch }

/-- The lane quota is handed over: the excess lanes are evicted, and then what follows in the pools and the lane engine is
done (R29, R30). The lanes that leave the unit wait queue so raise one service, made after all of them (log 35). -/
def State.handQuota (s : State) (t : Nat) : State := (State.quotaEvict t (s.tenant t).bound s).runLanes

/-- The lane floor is handed over: a lowered one raises the eviction check (R29, R67). -/
def State.handFloor (s : State) (old new : Policy) : State :=
  if new.laneFloor < old.laneFloor then s.raiseCheck.runLanes else s

/-- The pool mask and the no-unit policy are handed over: the unit wait queue is served if a lane of the tenant stands in it
(R29, R95). -/
def State.handPools (s : State) (t : Nat) (old new : Policy) : State :=
  if (old.poolMask ≠ new.poolMask || old.noUnit ≠ new.noUnit) && s.waitsForUnit t then s.raiseService.runLanes else s

/-- A record becomes the active record of an ACTIVE or SUSPENDED tenant. The handovers are made one after the other in R29's
order, each with what it brings about in the pools and the lane engine; then the head of the queue is to be served. -/
def State.applyRecord (s : State) (t : Nat) (new : Policy) : State :=
  let old := (s.tenant t).active
  ((((s.modTenant t (Tenant.under new)).handQuota t).handFloor old new).handPools t old new).raiseHead t

/-- The floor sum with the reservation of tenant t replaced (R25). -/
def State.floorSumWith (s : State) (t floor : Nat) : Nat := s.floorSum - (s.tenant t).reservation + floor

/-- SET_POLICY with when NOW (R25, R28). -/
def State.setNow (s : State) (tag : BitVec 16) (t : Nat) (p : Policy) : State :=
  let pendingFloor := match (s.tenant t).pendingPolicy with | some q => q.laneFloor | none => 0
  if Config.floorLimit < s.floorSumWith t (max p.laneFloor pendingFloor) then s.reply tag .noCapacity
  else ((s.applyRecord t p).runWork.reply tag .ok (.policy p)).conclude

/-- SET_POLICY with when EPOCH (R25, R31). -/
def State.setAtEpoch (s : State) (tag : BitVec 16) (t : Nat) (p : Policy) : State :=
  if Config.floorLimit < s.floorSumWith t (max (s.tenant t).active.laneFloor p.laneFloor) then s.reply tag .noCapacity
  else (s.modTenant t (fun v => { v with pendingPolicy := some p })).reply tag .ok (.policy p)

/-- SET_POLICY, taken (R26, R28, R31). -/
def State.takeSetPolicy (tag tenant : BitVec 16) (whenCode : BitVec 8) (raw : RawPolicy) (s : State) : State :=
  s.tenantRequest tag tenant fun s =>
    let t := tenant.toNat
    if (s.tenant t).isServed then
      match whenCode.toNat, policyOf raw with
      | 0, some p => s.setNow tag t p
      | 1, some p => s.setAtEpoch tag t p
      | _, _ => s.reply tag .badRequest
    else s.reply tag .tenantState

/-- SET_POLICY. -/
def execSetPolicy (tag tenant : BitVec 16) (whenCode : BitVec 8) (raw : RawPolicy) (s : State) :
    Host.Outcome State Fault Refusal :=
  .next (s.control tag raw.fits (State.takeSetPolicy tag tenant whenCode raw))

/-! ## CANCEL_PENDING, SUSPEND_TENANT, RESUME_TENANT -/

/-- CANCEL_PENDING, taken (R26, R33). -/
def State.takeCancel (tag tenant : BitVec 16) (s : State) : State :=
  s.tenantRequest tag tenant fun s =>
    let t := tenant.toNat
    if (s.tenant t).isServed then
      if (s.tenant t).pendingPolicy.isSome then
        (s.modTenant t (fun v => { v with pendingPolicy := none })).reply tag .ok
      else s.reply tag .none
    else s.reply tag .tenantState

/-- CANCEL_PENDING. -/
def execCancelPending (tag tenant : BitVec 16) (s : State) : Host.Outcome State Fault Refusal :=
  .next (s.control tag true (State.takeCancel tag tenant))

/-- SUSPEND_TENANT, taken (R26, R34): the eviction check follows (R67). -/
def State.takeSuspend (tag tenant : BitVec 16) (s : State) : State :=
  s.tenantRequest tag tenant fun s =>
    let t := tenant.toNat
    if (s.tenant t).state = .active then
      ((s.modTenant t (fun v => { v with state := .suspended })).raiseCheck.runWork.reply tag .ok).conclude
    else s.reply tag .tenantState

/-- SUSPEND_TENANT. -/
def execSuspendTenant (tag tenant : BitVec 16) (s : State) : Host.Outcome State Fault Refusal :=
  .next (s.control tag true (State.takeSuspend tag tenant))

/-- RESUME_TENANT, taken (R26, R35): the head is served again, whatever it waits for. -/
def State.takeResume (tag tenant : BitVec 16) (s : State) : State :=
  s.tenantRequest tag tenant fun s =>
    let t := tenant.toNat
    if (s.tenant t).state = .suspended then
      (((s.modTenant t (fun v => { v with state := .active })).serveAgain t).runWork.reply tag .ok).conclude
    else s.reply tag .tenantState

/-- RESUME_TENANT. -/
def execResumeTenant (tag tenant : BitVec 16) (s : State) : Host.Outcome State Fault Refusal :=
  .next (s.control tag true (State.takeResume tag tenant))

/-! ## REMOVE_TENANT and the drain deadline -/

/-- Mode codes of REMOVE_TENANT (R166). -/
def drainModeOf (b : BitVec 8) : Option DrainMode :=
  match b.toNat with
  | 0 => some .flush
  | 1 => some .abort
  | _ => none

/-- Entry to DRAINING (R36, R166). -/
def State.enterDraining (s : State) (t : Nat) (mode : DrainMode) : State :=
  s.modTenant t (fun v => { v with state := .draining, pendingPolicy := none, drain := some ⟨mode, .frames, .absent⟩ })

/-- What the mode does to the queue (R167), with the number of frames it ends. -/
def State.drainQueue (s : State) (t : Nat) : DrainMode → State × Nat
  | .abort => (s.abortQueue t, (s.queueOf t).length)
  | .flush => (s.serveAgain t, 0)

/-- The deadline timer is made RUNNING when the queue still holds a frame and there is a deadline (R166). -/
def State.startDeadline (s : State) (t : Nat) : State :=
  if s.queueOf t ≠ [] && 0 < s.settings.drainDeadline then
    s.modTenant t fun v =>
      { v with drain := v.drain.map (fun d => { d with timer := .running s.settings.drainDeadline }) }
  else s

/-- The removal of an ACTIVE or SUSPENDED tenant (R166). -/
def State.remove (s : State) (tag : BitVec 16) (t : Nat) (mode : DrainMode) : State :=
  let r := (s.enterDraining t mode).drainQueue t mode
  let s := (r.1.startDeadline t).runWork
  (s.reply tag .ok (.removal r.2 (s.tenant t).owned)).conclude

/-- REMOVE_TENANT, taken (R166). -/
def State.takeRemove (tag tenant : BitVec 16) (mode : BitVec 8) (s : State) : State :=
  if s.device = .holding then s.reply tag .wrongState
  else
    match drainModeOf mode with
    | none => s.reply tag .badRequest
    | some m =>
      if !tenantIdOk tenant || tenant.toNat = 0 then s.reply tag .badRequest
      else if (s.tenant tenant.toNat).isServed then s.remove tag tenant.toNat m
      else s.reply tag .tenantState

/-- REMOVE_TENANT. -/
def execRemoveTenant (tag tenant : BitVec 16) (mode : BitVec 8) (s : State) : Host.Outcome State Fault Refusal :=
  .next (s.control tag true (State.takeRemove tag tenant mode))

/-- Tenant t's deadline timer runs: phase FRAMES, the timer RUNNING and the device RUNNING (R171). -/
def State.deadlineRuns (s : State) (t : Nat) : Bool :=
  s.device = .running && (s.tenant t).inFrames
    && (match (s.tenant t).drain with
        | some d => (match d.timer with | .running _ => true | _ => false)
        | none => false)

/-- DRAIN_DEADLINE_EXPIRY: every queued frame is replied ABORTED and the final close is taken (R171). -/
def execDrainDeadlineExpiry (tenant : BitVec 10) (s : State) : Host.Outcome State Fault Refusal :=
  .next (if s.deadlineRuns tenant.toNat then (s.abortQueue tenant.toNat).conclude else s)

/-! ## FLUSH_TENANT -/

/-- The lowest free control slot, which names a new flush record (log 18). -/
def State.freeSlot (s : State) : Nat :=
  ((List.range Config.controlSlots).find? (fun i => !s.flushes.any (fun f => f.slot = i))).getD 0

/-- The flush records of tenant t (R82). -/
def State.flushesOf (s : State) (t : Nat) : List FlushRec := s.flushes.filter (fun f => f.tenant = t)

/-- A half that is FULL or PROGRAMMING gets a reference to the record (R83). -/
def State.refHalf (slot : Nat) (r : State × Nat) (p : Nat × HalfId) : State × Nat :=
  if (r.1.half p.1 p.2).isBusy then
    (r.1.modHalf p.1 p.2 (fun v => { v with refs := v.refs ++ [slot] }), r.2 + 1)
  else r

/-- One lane is visited (R83): its filling half is padded, then its halves are referenced. -/
def State.flushLane (slot : Nat) (r : State × Nat) (l : Nat) : State × Nat :=
  let s := r.1.padFilling l (!(r.1.lane l).isBound)
  State.refHalf slot (State.refHalf slot (s, r.2) (l, .a)) (l, .b)

/-- The lanes whose stream field names tenant t, in ascending id (R83, log 18). -/
def State.lanesOf (s : State) (t : Nat) : List Nat := s.laneIds.filter (fun l => (s.lane l).belongsTo t)

/-- A flush record is created (R83); with nothing to wait for, the reply is OK at once. -/
def State.flush (s : State) (tag : BitVec 16) (t : Nat) : State :=
  let slot := s.freeSlot
  let r := (s.lanesOf t).foldl (State.flushLane slot) (s, 0)
  if r.2 = 0 then (r.1.runWork.reply tag .ok (.flush 0)).conclude
  else
    let record : FlushRec := ⟨slot, tag, t, r.2, r.2, false⟩
    { r.1 with flushes := r.1.flushes ++ [record] }.conclude

/-- FLUSH_TENANT, taken (R82). -/
def State.takeFlush (tag tenant : BitVec 16) (s : State) : State :=
  let v := s.tenant tenant.toNat
  if !tenantIdOk tenant then s.reply tag .badRequest
  else if v.state = .vacant then s.reply tag .tenantState
  else if v.active.flushMode = .holdup && s.settings.holdupArmed then s.reply tag .ok (.flush 0)
  else if Config.tenantFlushes ≤ (s.flushesOf tenant.toNat).length then s.reply tag .busy
  else s.flush tag tenant.toNat

/-- FLUSH_TENANT. -/
def execFlushTenant (tag tenant : BitVec 16) (s : State) : Host.Outcome State Fault Refusal :=
  .next (s.control tag true (State.takeFlush tag tenant))

end Sys2Proof.Machine
end

