-- ==== Sys2Proof/Machine/Watch.lean ====
section
/-! DEFINITION. The watch unit: classifying a sample (R162 to R164). -/

namespace Sys2Proof.Machine

/-- The side of a sample against the thresholds; NONE is INSIDE (R163). -/
def sideOf (p : Policy) (x : Nat) : Side :=
  if p.watchHigh < x then .over else if x < p.watchLow then .under else .none

/-- The watch record after a sample, before a notice clears it (R163). -/
def WatchRecord.after (w : WatchRecord) : Side → WatchRecord
  | .none => ⟨0, .none⟩
  | side => if w.side = side then ⟨w.count + 1, side⟩ else ⟨1, side⟩

/-- The code of a side in a WATCH notice (section 1.5). -/
def Side.code : Side → Nat
  | .none => 0
  | .over => 1
  | .under => 2

/-- The detail of a WATCH notice: byte 0 the side, byte 1 zero, bytes 2 and 3 the sample (section 1.5). -/
def watchDetail (side : Side) (x : Nat) : BitVec 32 := BitVec.ofNat 32 (side.code * 16777216 + x)

/-- A sample is classified under the tenant's active record (R163). -/
def State.classifySample (s : State) (t x : Nat) : State :=
  let p := (s.tenant t).active
  let w := (s.tenant t).watch.after (sideOf p x)
  if w.count = p.watchDepth then
    (s.modTenant t (fun v => { v with watch := ⟨0, .none⟩ })).post t .watch (watchDetail w.side x)
  else s.modTenant t (fun v => { v with watch := w })

/-- A sample taken for a source is handed to tenant t's watch (R162): only an ACTIVE or SUSPENDED tenant's, under that
source, with a filter depth above 0. -/
def State.sample (s : State) (t : Nat) (source : WatchSource) (x : Nat) : State :=
  let v := s.tenant t
  if v.isServed && v.active.watchSource = source && 0 < v.active.watchDepth then s.classifySample t x else s

end Sys2Proof.Machine
end

