-- ==== Sys2Proof/Machine/Epochs.lean ====
section
/-! DEFINITION. Epoch boundaries (R153 to R160), FORCE_EPOCH, POLICY_HOLD and EPOCH_BOUNDARY. -/

namespace Sys2Proof.Machine

/-- The pending record of an ACTIVE or SUSPENDED tenant is applied (R32). -/
def State.applyPending (s : State) (t : Nat) : State :=
  match (s.tenant t).pendingPolicy with
  | some p =>
    if (s.tenant t).isServed then
      (s.modTenant t (fun v => { v with pendingPolicy := none })).applyRecord t p
    else s
  | none => s

/-- Every pending record is applied unless the policy hold is on, in ascending tenant id (R32, R158, log 15). -/
def State.applyAll (s : State) : State :=
  if s.policyHold then s else (rowKeys s.tenants).foldl State.applyPending s

/-- The CREDIT_LEFT and EVICTIONS samples of a tenant (R50, R162). -/
def State.boundarySamples (s : State) (t : Nat) : State :=
  let v := s.tenant t
  let s := if v.active.allowance = 0 then s else s.sample t .creditLeft (min v.credit 65535)
  s.sample t .evictions v.epochEvictions

/-- The refill of a tenant that is not VACANT and has a limited allowance (R50). -/
def Tenant.refill (v : Tenant) : Tenant :=
  if v.state = .vacant || v.active.allowance = 0 then v
  else { v with credit := min (v.credit + v.active.allowance) (2 * v.active.allowance) }

/-- One tenant's samples, the return of its eviction count to 0, and its refill (R155, R162). A head that waits for credit
is served (R48). -/
def State.boundaryTenant (s : State) (t : Nat) : State :=
  let s := s.boundarySamples t
  let s := s.modTenant t (fun v => { v.refill with epochEvictions := 0 })
  match s.headOf t with
  | some f => if f.step = .credit then s.raiseHead t else s
  | none => s

/-- The seal epoch raised by one; 4,294,967,295 is followed by 0, as in the epoch number (R127, log 17). -/
def raiseSealEpoch (e : Int) : Int := if e = 4294967295 then 0 else e + 1

/-- A SEALED unit whose age stood at 255 keeps it: its seal epoch rises by one (R127). `before` is the epoch number before
the boundary. -/
def ageUnit (before : BitVec 32) (r : UnitRec) : UnitRec :=
  if r.state = .sealed && ageOf before r = Config.ageMax then { r with sealEpoch := r.sealEpoch.map raiseSealEpoch }
  else r

/-- The registry's work at a boundary (R127). -/
def State.ageUnits (s : State) (before : BitVec 32) : State :=
  { s with units := s.units.map (fun row => (row.1, ageUnit before row.2)) }

/-- The scan repetition counter at a boundary (R159). -/
def State.repetition (s : State) (forced : Bool) : State :=
  if forced || s.scanCount = 0 then
    let s := { s with scanCount := s.settings.scanRepetition }
    if s.settings.trigger = .epoch then s.scanTrigger else s
  else { s with scanCount := s.scanCount - 1 }

/-- The EPOCH notice of a boundary (R160). -/
def State.epochNotice (s : State) (quiet : Bool) : State :=
  if s.settings.epochNotice && !quiet then s.post Config.deviceSource .epoch s.epoch else s

/-- A boundary (R155): the epoch number rises first, the timer starts again, and the work is handed on in the order of
R155's table (log 15). -/
def State.boundary (s : State) (forced quiet : Bool) : State :=
  let before := s.epoch
  let s := { s with epoch := s.epoch + 1#32, epochTimer := some s.settings.epochLength }
  let s := s.applyAll
  let s := (rowKeys s.tenants).foldl State.boundaryTenant s
  ((s.ageUnits before).repetition forced).epochNotice quiet

/-- FORCE_EPOCH, taken (R156). -/
def State.takeForceEpoch (tag : BitVec 16) (quiet : BitVec 8) (s : State) : State :=
  if s.device = .running then
    let s := (s.boundary true (flagOf quiet)).runWork
    (s.reply tag .ok (.epoch s.epoch)).conclude
  else s.reply tag .wrongState

/-- FORCE_EPOCH. -/
def execForceEpoch (tag : BitVec 16) (quiet : BitVec 8) (s : State) : Host.Outcome State Fault Refusal :=
  .next (s.control tag true (State.takeForceEpoch tag quiet))

/-- EPOCH_BOUNDARY: the epoch timer expires, which it does only in RUNNING (R153, log 2). -/
def execEpochBoundary (s : State) : Host.Outcome State Fault Refusal :=
  .next (if s.device = .running && s.epochTimer.isSome then (s.boundary false false).conclude else s)

/-- POLICY_HOLD, taken in every device state (R158). -/
def State.takePolicyHold (tag : BitVec 16) (code : BitVec 8) (s : State) : State :=
  match code.toNat with
  | 0 => { s with policyHold := false }.reply tag .ok (.hold false)
  | 1 => { s with policyHold := true }.reply tag .ok (.hold true)
  | _ => s.reply tag .badRequest

/-- POLICY_HOLD. -/
def execPolicyHold (tag : BitVec 16) (code : BitVec 8) (s : State) : Host.Outcome State Fault Refusal :=
  .next (s.control tag true (State.takePolicyHold tag code))

end Sys2Proof.Machine
end

