-- ==== Sys2Proof/Machine/Holds.lean ====
section
/-! DEFINITION. HOLD_ASSERTED, HOLD_DEASSERTED (R177, R178) and RESUME_FROM_HOLD (R182). -/

namespace Sys2Proof.Machine

/-- HOLD_ASSERTED: the level is recorded, and in RUNNING the part enters HOLDING (R177, R178). -/
def execHoldAsserted (s : State) : Host.Outcome State Fault Refusal :=
  let s := { s with holdLevel := true }
  .next (if s.device = .running then s.enterHolding.conclude else s)

/-- HOLD_DEASSERTED: the level is recorded; in HELD with auto-resume on the part returns to RUNNING (R177, R182). -/
def execHoldDeasserted (s : State) : Host.Outcome State Fault Refusal :=
  let s := { s with holdLevel := false }
  .next (if s.device = .held && s.settings.autoResume then s.returnToRunning else s)

/-- RESUME_FROM_HOLD, taken (R182). -/
def State.takeResumeFromHold (tag : BitVec 16) (s : State) : State :=
  match s.device with
  | .held => if s.holdLevel then s.reply tag .busy else s.returnToRunning.reply tag .ok
  | _ => s.reply tag .wrongState

/-- RESUME_FROM_HOLD. -/
def execResumeFromHold (tag : BitVec 16) (s : State) : Host.Outcome State Fault Refusal :=
  .next (s.control tag true (State.takeResumeFromHold tag))

end Sys2Proof.Machine
end

