-- ==== Sys2Proof/Machine/Link.lean ====
section
/-! DEFINITION. The link port's own commands: CONFIGURE (R14), START (R13), GRANT_CREDITS (R8), QUERY (R17, R18), the
resets (R15, R16), resync (R3), the frames that hold no slot (R1, R2), and the transmitter (R7, R9, R12). -/

namespace Sys2Proof.Machine

/-! ## CONFIGURE, START, GRANT_CREDITS -/

/-- CONFIGURE, taken (R14). A refusal carries its status alone: R14 gives the settings to the reply OK (log 34). -/
def State.takeConfigure (tag : BitVec 16) (raw : RawSettings) (s : State) : State :=
  if s.device = .config then
    match settingsOf raw with
    | some v => { s with settings := v }.reply tag .ok (.settings v)
    | none => s.reply tag .badRequest
  else s.reply tag .wrongState

/-- CONFIGURE. -/
def execConfigure (tag : BitVec 16) (raw : RawSettings) (s : State) : Host.Outcome State Fault Refusal :=
  .next (s.control tag true (State.takeConfigure tag raw))

/-- START in CONFIG (R13, R144, R153, R154, R159). -/
def State.startRunning (s : State) : State :=
  { s with
    device := .running
    epoch := 0#32
    epochTimer := some s.settings.epochLength
    scanCount := s.settings.scanRepetition }.continuousScan

/-- START, taken: with the HOLD level asserted, entry to HOLDING follows at once (R177). -/
def State.takeStart (tag : BitVec 16) (s : State) : State :=
  if s.device = .config then
    let s := s.startRunning.reply tag .ok
    (if s.holdLevel then s.enterHolding else s).conclude
  else s.reply tag .wrongState

/-- START. -/
def execStart (tag : BitVec 16) (s : State) : Host.Outcome State Fault Refusal :=
  .next (s.control tag true (State.takeStart tag))

/-- GRANT_CREDITS, taken in every device state (R8). -/
def State.takeGrant (tag grant : BitVec 16) (s : State) : State :=
  if grant.toNat = 0 || 4096 < grant.toNat then s.reply tag .badRequest (.credit s.credit)
  else
    let n := min (s.credit + grant.toNat) Config.creditMax
    { s with credit := n }.reply tag .ok (.credit n)

/-- GRANT_CREDITS. -/
def execGrantCredits (tag grant : BitVec 16) (s : State) : Host.Outcome State Fault Refusal :=
  .next (s.control tag true (State.takeGrant tag grant))

/-! ## QUERY -/

/-- A READY entry of the placement queue (R10). -/
def PlaceEntry.isReady : PlaceEntry → Bool
  | .ready _ _ _ => true
  | .reserved _ _ => false

/-- The DEVICE snapshot (R18). The QUERY holds a control slot while it is answered (R6, log 32). -/
def State.deviceSnapshot (s : State) : DeviceSnapshot where
  device := s.device
  epoch := s.epoch
  settings := s.settings
  policyHold := s.policyHold
  scanRunning := s.scan.isSome
  credit := s.credit
  attentionLength := s.attention.length
  placementReady := s.placement.countP PlaceEntry.isReady
  placementReserved := s.placement.length - s.placement.countP PlaceEntry.isReady
  freeWriteSlots := Config.writeSlots - s.intake.length
  freeControlSlots := Config.controlSlots - (s.flushes.length + 1)
  parked := s.parked
  counters := s.counters

/-- The TENANT snapshot (R18). -/
def State.tenantSnapshot (s : State) (t : Nat) : TenantSnapshot where
  state := (s.tenant t).state
  active := (s.tenant t).active
  pendingPolicy := (s.tenant t).pendingPolicy
  credit := (s.tenant t).credit
  owned := (s.tenant t).owned
  bound := (s.tenant t).bound
  queueLength := (s.queueOf t).length
  flushes := (s.flushesOf t).length
  watch := (s.tenant t).watch
  counters := (s.tenant t).counters

/-- One half as the LANE snapshot shows it (R18). -/
def Half.snapshot (v : Half) : HalfSnapshot where
  state := v.state
  real := v.realCount
  pad := v.padCount
  assigned := v.assigned
  sealMark := v.sealMark
  refs := v.refs.length

/-- The position of lane l in the recency list, the least recent being 1 (R61). -/
def State.position (s : State) (l : Nat) : Option Nat :=
  if s.recency.contains l then some (s.recency.idxOf l + 1) else none

/-- The LANE snapshot (R18), with the first-full mark that R57 adds (log 42). -/
def State.laneSnapshot (s : State) (l : Nat) : LaneSnapshot where
  state := (s.lane l).state
  stream := (s.lane l).stream
  current := (s.lane l).current
  failRun := (s.lane l).failRun
  position := s.position l
  halfA := (s.lane l).halfA.snapshot
  halfB := (s.lane l).halfB.snapshot
  firstFull := (s.lane l).firstFull

/-- The UNIT snapshot (R18, R137): age and score only for a SEALED unit. -/
def State.unitSnapshot (s : State) (u : Nat) : UnitSnapshot where
  state := (s.unit u).state
  owner := (s.unit u).owner
  valid := (s.unit u).valid
  programmed := (s.unit u).programmed
  nextStripe := (s.unit u).nextStripe
  sealEpoch := (s.unit u).sealEpoch
  ageScore := if (s.unit u).state = .sealed then some (ageOf s.epoch (s.unit u), s.score u) else none
  failed := (s.unit u).failed

/-- The POOLS snapshot (R18, R86, R96). -/
def State.poolsSnapshot (s : State) : PoolsSnapshot where
  pools := allGroups.map (fun g => ((s.pool g).length, (s.pool g).head?))
  unitWait := s.unitWait.length
  lowMask := s.lowMask

/-- The snapshot of a target, or none for a bad target code or id (R17). -/
def State.snapshotOf (s : State) : QueryTarget → Option Snapshot
  | .device => some (.device s.deviceSnapshot)
  | .tenant t => if tenantIdOk t then some (.tenant (s.tenantSnapshot t.toNat)) else none
  | .stream t x =>
    if tenantIdOk t && x.toNat < Config.streamCount then some (.stream (s.stream t.toNat x.toNat)) else none
  | .lane l => if l.toNat < Config.laneCount then some (.lane (s.laneSnapshot l.toNat)) else none
  | .unit u => if unitIdOk u then some (.unit (s.unitSnapshot u.toNat)) else none
  | .pools => some (.pools s.poolsSnapshot)
  | .nominations => some (.nominations (s.nominations.map Nomination.entry))
  | .unassigned _ => none

/-- The counters of a target are set to 0 (R17). -/
def State.clearCounters (s : State) : QueryTarget → State
  | .device => { s with counters := DeviceCounters.reset }
  | .tenant t => s.modTenantCounters t.toNat (fun _ => TenantCounters.reset)
  | .stream t x => s.modStream t.toNat x.toNat (fun v => { v with accepted := 0, placed := 0 })
  | _ => s

/-- QUERY, taken in every device state (R17). -/
def State.takeQuery (tag : BitVec 16) (target : QueryTarget) (clear : BitVec 8) (s : State) : State :=
  match s.snapshotOf target with
  | some r => (if flagOf clear then s.clearCounters target else s).reply tag .ok (.snapshot r)
  | none => s.reply tag .badRequest

/-- QUERY. -/
def execQuery (tag : BitVec 16) (target : QueryTarget) (clear : BitVec 8) (s : State) :
    Host.Outcome State Fault Refusal :=
  .next (s.control tag true (State.takeQuery tag target clear))

/-! ## Reset and resync -/

/-- DEVICE_RESET, taken in every device state and without a slot: its reply is queued and the receiver stops (R15). -/
def State.takeDeviceReset (tag : BitVec 16) (s : State) : State :=
  let s := s.reply tag .ok
  { s with resetWait := some s.replies.length }

/-- DEVICE_RESET. -/
def execDeviceReset (tag : BitVec 16) (s : State) : Host.Outcome State Fault Refusal :=
  .next (s.receive true (State.takeDeviceReset tag))

/-- Every block returns to its reset values (R15, R16). The level of HOLD is taken from the input (R176); the commands
that wait are outside the part and stay (log 26). -/
def State.afterReset (s : State) (hold : Bool) : State := { State.reset with holdLevel := hold, pending := s.pending }

/-- DEVICE_RESET_TAKES_EFFECT: as the reply of a DEVICE_RESET ends (R15); without one there is no such event (log 2). -/
def execDeviceResetTakesEffect (hold : Bool) (s : State) : Host.Outcome State Fault Refusal :=
  .next (if s.resetWait = some 0 then s.afterReset hold else s)

/-- RESET_N: at once (R15). -/
def execResetN (hold : Bool) (s : State) : Host.Outcome State Fault Refusal := .next (s.afterReset hold)

/-- LINK_RESYNC, with or without a resync delimiter before it (R3). -/
def execLinkResync (tag : BitVec 16) (s : State) : Host.Outcome State Fault Refusal :=
  .next (if s.rxBlocked then s else { s.noteRx with resyncArmed := false, credit := 0 }.reply tag .ok)

/-- RESYNC_DELIMITER: a partial frame is dropped uncounted, and the next frame is awaited (R3, log 27). -/
def execResyncDelimiter (s : State) : Host.Outcome State Fault Refusal :=
  .next (if s.rxBlocked then s else { s.noteRx with resyncArmed := true })

/-- UNASSIGNED_FRAME: answered BAD_REQUEST without a slot (R2). -/
def execUnassignedFrame (tag : BitVec 16) (s : State) : Host.Outcome State Fault Refusal :=
  .next (s.receive true (fun s => s.reply tag .badRequest))

/-- What is being received after a frame has been discarded: a new frame, where a start delimiter ended the one before
(R1). -/
def receivingAfter (why : DiscardReason) : Option (List Byte) := if why = .newDelimiter then some [] else none

/-- FRAME_DISCARD, whatever the reason (R1, R3). -/
def execFrameDiscard (why : DiscardReason) (s : State) : Host.Outcome State Fault Refusal :=
  .next (if s.rxBlocked then s else { s with resyncArmed := false, receiving := receivingAfter why }.discardFrame)

/-! ## The transmitter -/

/-- SEND_REPLY: the oldest reply leaves the queue (R4, R7). After the reply of a DEVICE_RESET nothing is sent (R15). -/
def execSendReply (s : State) : Host.Outcome State Fault Refusal :=
  .next (match s.replies with
    | [] => s
    | r :: rest =>
      if s.resetWait = some 0 then s
      else
        { s with
          replies := rest
          tx := some (.reply r)
          resetWait := s.resetWait.map (fun n => n - 1) })

/-- The arbiter may choose: no reply waits, the credit is above 0, and no DEVICE_RESET has been taken (R7, R9, R15). -/
def State.arbiterOpen (s : State) : Bool := s.replies = [] && 0 < s.credit && s.resetWait.isNone

/-- A placement candidate exists: the head of the placement queue is READY (R9). -/
def State.placementWaits (s : State) : Bool :=
  match s.placement with
  | e :: _ => e.isReady
  | [] => false

/-- A notice candidate exists (R9). -/
def State.noticeWaits (s : State) : Bool := s.attention ≠ []

/-- The placement report is begun: credit and preference, and the entry leaves the queue (R8 to R10). -/
def State.sendHead (s : State) (t x : Nat) (extents : List Extent) (rest : List PlaceEntry) : State :=
  { s with
    credit := s.credit - 1
    preference := if s.noticeWaits then .notice else .placement
    placement := rest
    tx := some (.placement t x extents) }

/-- SEND_PLACEMENT_REPORT: where the arbiter chooses the READY head; the room is then granted (R9, R10, R107). -/
def execSendPlacementReport (s : State) : Host.Outcome State Fault Refusal :=
  .next (match s.placement with
    | .ready t x extents :: rest =>
      if s.arbiterOpen && (!s.noticeWaits || s.preference = .placement) then (s.sendHead t x extents rest).grantRoom
      else s
    | _ => s)

/-- SEND_NOTICE: where the arbiter chooses the notice of the first source; its pending set is emptied (R9, R12). -/
def execSendNotice (s : State) : Host.Outcome State Fault Refusal :=
  .next (match s.attention with
    | src :: rest =>
      if s.arbiterOpen && (!s.placementWaits || s.preference = .notice) then
        { s with
          credit := s.credit - 1
          preference := .placement
          attention := rest
          notices := putRow [] s.notices src []
          tx := some (.notice src (s.pendingSet src)) }
      else s
    | [] => s)

end Sys2Proof.Machine
end

