-- ==== Sys2Proof/Machine/Reports.lean ====
section
/-! DEFINITION. Media reports and order timers: PROGRAM_DONE (R109, R110), PROGRAM_FAIL (R111), PROGRAM_TIMEOUT (R115),
SEAL_DONE (R118), SEAL_FAIL and SEAL_TIMEOUT (R119), MEDIA_REPORT_CORRUPT (R99). -/

namespace Sys2Proof.Machine

/-- The order of die d has ended and its work is done: the die is IDLE, the grants are made, and the command ends
(R106). -/
def State.finishOrder (s : State) (d : Nat) : State := (s.runWork.endOrder d).conclude

/-- Steps 1 to 3 of R109 for half h of lane l, then the grant. -/
def State.programDone (s : State) (d u l : Nat) (h : HalfId) (mark : Bool) : State :=
  let s := (s.completeHalf l h).runWork
  let s := s.modLane l (fun v => { v with failRun := 0 })
  (if mark then s.sealUnit u else s).finishOrder d

/-- PROGRAM_DONE. -/
def execProgramDone (die : BitVec 6) (seq : BitVec 8) (unit : BitVec 15) (s : State) :
    Host.Outcome State Fault Refusal :=
  .next (match s.programOf die.toNat seq unit.toNat with
    | some (l, h, mark) => s.programDone die.toNat unit.toNat l h mark
    | none => s.staleReport)

/-- A UNIT_FAILED notice for tenant t (section 1.5). -/
def State.postFailed (s : State) (t u : Nat) : State := s.post t .unitFailed (BitVec.ofNat 32 u)

/-- Step 3 of R111: the tenant named by the lane's stream field is told. -/
def State.tellLaneTenant (s : State) (l u : Nat) : State :=
  match (s.lane l).stream with
  | some (t, _) => s.postFailed t u
  | none => s

/-- Steps 3 to 6 of R111, after the unit and the counter. -/
def State.programLost (s : State) (d u l : Nat) (h : HalfId) : State :=
  let s := (s.failUnit u).tellLaneTenant l u
  let s := s.modLane l (fun v => { v with failRun := min (v.failRun + 1) 255 })
  (s.reissue l h u).finishOrder d

/-- The program-fail counter rises (R111, R119). -/
def State.countFail (s : State) : State := s.modCounters (fun c => { c with programFails := bump c.programFails 1 })

/-- The program-timeout counter rises (R115). -/
def State.countTimeout (s : State) : State :=
  s.modCounters (fun c => { c with programTimeouts := bump c.programTimeouts 1 })

/-- PROGRAM_FAIL. -/
def execProgramFail (die : BitVec 6) (seq : BitVec 8) (unit : BitVec 15) (s : State) :
    Host.Outcome State Fault Refusal :=
  .next (match s.programOf die.toNat seq unit.toNat with
    | some (l, h, _) => s.countFail.programLost die.toNat unit.toNat l h
    | none => s.staleReport)

/-- PROGRAM_TIMEOUT: the timer of the die's program order expires (R115); without one there is no expiry (log 2). -/
def execProgramTimeout (die : BitVec 6) (s : State) : Host.Outcome State Fault Refusal :=
  .next (match (s.die die.toNat).busy with
    | some ⟨_, u, .program l h _ _ _, _⟩ => s.countTimeout.programLost die.toNat u l h
    | _ => s)

/-- MEDIA_REPORT_CORRUPT: a damaged report is stale (R99). -/
def execMediaReportCorrupt (s : State) : Host.Outcome State Fault Refusal := .next s.staleReport

/-- The CLOSING lane whose current unit is u (R78). -/
def State.laneSealing (s : State) (u : Nat) : Option Nat :=
  s.laneIds.find? fun l =>
    (s.lane l).state = .closing && (match (s.lane l).current with | some (c, _) => c = u | none => false)

/-- The CLOSING lane that waits for the seal of u lets go of it and becomes FREE (R118, R119). -/
def State.freeSealing (s : State) (u : Nat) : State :=
  match s.laneSealing u with
  | some l => s.freeLane l
  | none => s

/-- SEAL_DONE. -/
def execSealDone (die : BitVec 6) (seq : BitVec 8) (unit : BitVec 15) (s : State) :
    Host.Outcome State Fault Refusal :=
  .next (if s.sealAnswers die.toNat seq unit.toNat then
      ((s.sealUnit unit.toNat).freeSealing unit.toNat).finishOrder die.toNat
    else s.staleReport)

/-- The failure of the seal of unit u, after the counter (R119). -/
def State.sealLost (s : State) (d u : Nat) : State :=
  let owner := (s.unit u).owner
  let s := s.failUnit u
  let s := match owner with | some (t, _) => s.postFailed t u | none => s
  (s.freeSealing u).finishOrder d

/-- SEAL_FAIL. -/
def execSealFail (die : BitVec 6) (seq : BitVec 8) (unit : BitVec 15) (s : State) :
    Host.Outcome State Fault Refusal :=
  .next (if s.sealAnswers die.toNat seq unit.toNat then s.countFail.sealLost die.toNat unit.toNat else s.staleReport)

/-- SEAL_TIMEOUT: the timer of the die's seal order expires (R115, R119); without one there is no expiry (log 2). -/
def execSealTimeout (die : BitVec 6) (s : State) : Host.Outcome State Fault Refusal :=
  .next (match (s.die die.toNat).busy with
    | some ⟨_, u, .seal, _⟩ => s.countTimeout.sealLost die.toNat u
    | _ => s)

end Sys2Proof.Machine
end

