-- ==== Sys2Proof/Machine/Scans.lean ====
section
/-! DEFINITION. START_SCAN (R142), TAKE_NOMINATION (R149 to R151) and SCAN_VISIT (R145, R147). -/

namespace Sys2Proof.Machine

/-- A scope code with its tenant id (R142, R149): ALL or ANY 0, TENANT 1. -/
def scopeOf (scope : BitVec 8) (tenant : BitVec 16) : Option ScanScope :=
  match scope.toNat with
  | 0 => some .all
  | 1 => if tenantIdOk tenant then some (.tenant tenant.toNat) else none
  | _ => none

/-- START_SCAN, taken (R142). -/
def State.takeStartScan (tag : BitVec 16) (scope : BitVec 8) (tenant : BitVec 16) (s : State) : State :=
  if s.device = .holding || s.device = .held then s.reply tag .wrongState
  else
    match scopeOf scope tenant with
    | none => s.reply tag .badRequest
    | some sc => if s.scan.isSome then s.reply tag .busy else (s.beginScan sc).reply tag .ok

/-- START_SCAN. -/
def execStartScan (tag : BitVec 16) (scope : BitVec 8) (tenant : BitVec 16) (s : State) :
    Host.Outcome State Fault Refusal :=
  .next (s.control tag true (State.takeStartScan tag scope tenant))

/-- Unit u is taken (R151): it becomes RECLAIMING, the reply is formed, and its owner's watch gets a sample. -/
def State.takeUnitFor (s : State) (tag : BitVec 16) (u : Nat) : State :=
  let r := s.unit u
  let score := s.score u
  let s := (s.reclaim u).reply tag .ok (.nomination u r.ownerTenant r.valid score)
  s.sample r.ownerTenant .victimValid r.valid

/-- A take of the given scope on the nomination list (R150). -/
def State.take (s : State) (tag : BitVec 16) (scope : ScanScope) : State :=
  let r := walkNominations s scope s.nominations
  let s := { s with nominations := r.1 }
  match r.2 with
  | some u => s.takeUnitFor tag u
  | none => s.reply tag .none

/-- TAKE_NOMINATION, taken (R149). -/
def State.takeNomination (tag : BitVec 16) (scope : BitVec 8) (tenant : BitVec 16) (s : State) : State :=
  if s.device = .holding then s.reply tag .wrongState
  else
    match scopeOf scope tenant with
    | none => s.reply tag .badRequest
    | some sc => s.take tag sc

/-- TAKE_NOMINATION. -/
def execTakeNomination (tag : BitVec 16) (scope : BitVec 8) (tenant : BitVec 16) (s : State) :
    Host.Outcome State Fault Refusal :=
  .next (s.control tag true (State.takeNomination tag scope tenant))

/-- The next visit of a running scan, and its completion after unit 32,767 (R145, R147). -/
def State.visitNext (s : State) (sc : Scan) : State :=
  let s := s.visitUnit sc
  if sc.position + 1 < Config.unitCount then s else s.completeScan

/-- SCAN_VISIT; with no scan RUNNING there is no visit (log 2). -/
def execScanVisit (s : State) : Host.Outcome State Fault Refusal :=
  .next (match s.scan with
    | some sc => s.visitNext sc
    | none => s)

end Sys2Proof.Machine
end

