-- ==== Sys2Proof/Machine/Units.lean ====
section
/-! DEFINITION. DECLARE_UNITS (R129, R130), SUPPLY_UNITS (R87), RELEASE_UNITS (R88, R134, R135), INVALIDATE (R131) and
RECLAIM_UNIT (R133). -/

namespace Sys2Proof.Machine

/-- The reply of a list request: BAD_REQUEST alone for a bad length (R2); every entry WRONG_STATE where the device state
refuses the request (R129, R134; log 16). -/
def State.refuseList (s : State) (tag : BitVec 16) (n : Nat) : State :=
  s.reply tag .wrongState (.entries (List.replicate n .wrongState))

/-! ## DECLARE_UNITS -/

/-- The record of a unit declared SEALED (R130). -/
def sealedDeclared (epoch : BitVec 32) (e : DeclareEntry) : UnitRec where
  state := .sealed
  owner := some (e.owner.toNat, e.stream.toNat)
  valid := min e.valid.toNat Config.unitSectors
  programmed := Config.unitSectors
  nextStripe := Config.lastStripe + 1
  sealEpoch := some ((epoch.toNat : Int) - e.age.toNat)
  failed := false

/-- The record of a unit declared RETIRED (R130). -/
def retiredDeclared : UnitRec := { UnitRec.reset with state := .retired, failed := true }

/-- Step 1 of R130's checks. -/
def declareFieldsOk (e : DeclareEntry) : Bool :=
  unitIdOk e.unit && e.state.toNat ≤ 2
    && (e.state.toNat ≠ 0 || (tenantIdOk e.owner && e.stream.toNat < Config.streamCount))

/-- One DECLARE_UNITS entry (R130). -/
def declareOne (e : DeclareEntry) (s : State) : State × Status :=
  let u := e.unit.toNat
  if !declareFieldsOk e then (s, .badRequest)
  else if (s.unit u).state ≠ .unknown then (s, .wrongState)
  else if e.state.toNat = 0 then
    if (s.tenant e.owner.toNat).isServed then
      ((s.setUnit u (sealedDeclared s.epoch e)).modTenant e.owner.toNat (fun v => { v with owned := v.owned + 1 }), .ok)
    else (s, .tenantState)
  else if e.state.toNat = 1 then (s.setUnit u { UnitRec.reset with state := .vacant }, .ok)
  else (s.setUnit u retiredDeclared, .ok)

/-- DECLARE_UNITS, taken (R129). -/
def State.takeDeclare (tag : BitVec 16) (count : BitVec 8) (entries : List DeclareEntry) (s : State) : State :=
  if !listOk count then s.reply tag .badRequest
  else if s.device = .config then
    let r := handleEntries declareOne entries s
    r.1.reply tag .ok (.entries r.2)
  else s.refuseList tag entries.length

/-- DECLARE_UNITS. -/
def execDeclareUnits (tag : BitVec 16) (count : BitVec 8) (entries : List DeclareEntry) (s : State) :
    Host.Outcome State Fault Refusal :=
  .next (s.control tag (listFits count entries.length) (State.takeDeclare tag count entries))

/-! ## SUPPLY_UNITS -/

/-- One SUPPLY_UNITS entry (R87). -/
def supplyOne (unit : BitVec 16) (s : State) : State × Status :=
  let u := unit.toNat
  if !unitIdOk unit then (s, .badRequest)
  else if (s.unit u).state = .unknown || (s.unit u).state = .vacant then
    let s := s.setUnit u { UnitRec.reset with state := .free }
    (s.setPool (poolOf u) (s.pool (poolOf u) ++ [u]), .ok)
  else (s, .wrongState)

/-- The entries of a SUPPLY_UNITS, and the service of the unit wait queue when one was given OK (R87, R95). -/
def State.supply (s : State) (entries : List (BitVec 16)) : State × List Status :=
  let r := handleEntries supplyOne entries s
  (if r.2.contains .ok then r.1.raiseService.runWork else r.1, r.2)

/-- SUPPLY_UNITS, taken (R87). -/
def State.takeSupply (tag : BitVec 16) (count : BitVec 8) (entries : List (BitVec 16)) (s : State) : State :=
  if !listOk count then s.reply tag .badRequest
  else if s.device = .holding then s.refuseList tag entries.length
  else
    let r := s.supply entries
    (r.1.reply tag .ok (.entries r.2)).conclude

/-- SUPPLY_UNITS. -/
def execSupplyUnits (tag : BitVec 16) (count : BitVec 8) (entries : List (BitVec 16)) (s : State) :
    Host.Outcome State Fault Refusal :=
  .next (s.control tag (listFits count entries.length) (State.takeSupply tag count entries))

/-! ## RELEASE_UNITS -/

/-- A FREE unit is withdrawn from its pool and becomes VACANT (R88). -/
def State.withdraw (s : State) (u : Nat) : State :=
  let s := s.setPool (poolOf u) ((s.pool (poolOf u)).erase u)
  (s.modUnit u (fun r => { r with state := .vacant })).lowWaterCheck (poolOf u)

/-- The owned-unit count of a released unit's former owner falls; a REMOVED tenant whose count reaches 0 becomes VACANT
(R128, R135). -/
def State.disown (s : State) (t : Nat) : State :=
  let s := s.modTenant t (fun v => { v with owned := v.owned - 1 })
  if (s.tenant t).state = .removed && (s.tenant t).owned = 0 then s.vacate t else s

/-- Releasing a RECLAIMING unit (R135). -/
def State.release (s : State) (u : Nat) : State :=
  let owner := (s.unit u).owner
  let s := s.modUnit u fun r =>
    { r with state := if r.failed then .retired else .vacant, owner := none, valid := 0, sealEpoch := none }
  match owner with
  | some (t, _) => s.disown t
  | none => s

/-- One RELEASE_UNITS entry (R134). -/
def releaseOne (force : Bool) (unit : BitVec 16) (s : State) : State × Status :=
  let u := unit.toNat
  if !unitIdOk unit then (s, .badRequest)
  else
    match (s.unit u).state with
    | .free => (s.withdraw u, .ok)
    | .reclaiming =>
      if (s.unit u).valid = 0 then (s.release u, .ok)
      else if force then
        ((s.release u).modCounters (fun c => { c with forcedReleases := bump c.forcedReleases 1 }), .ok)
      else (s, .stillValid)
    | _ => (s, .wrongState)

/-- RELEASE_UNITS, taken (R134). -/
def State.takeRelease (tag : BitVec 16) (force count : BitVec 8) (entries : List (BitVec 16)) (s : State) : State :=
  if !listOk count then s.reply tag .badRequest
  else if s.device = .holding then s.refuseList tag entries.length
  else
    let r := handleEntries (releaseOne (flagOf force)) entries s
    r.1.reply tag .ok (.entries r.2)

/-- RELEASE_UNITS. -/
def execReleaseUnits (tag : BitVec 16) (force count : BitVec 8) (entries : List (BitVec 16)) (s : State) :
    Host.Outcome State Fault Refusal :=
  .next (s.control tag (listFits count entries.length) (State.takeRelease tag force count entries))

/-! ## INVALIDATE -/

/-- A unit whose valid count an invalidation lowers (R131). -/
def UnitState.holdsData : UnitState → Bool
  | .opened | .parked | .sealed | .reclaiming => true
  | _ => false

/-- One INVALIDATE entry (R131). -/
def invalidateOne (e : InvalidateEntry) (s : State) : State × Status :=
  let u := e.unit.toNat
  let k := e.count.toNat
  if !unitIdOk e.unit || k = 0 || Config.unitSectors < k then (s, .badRequest)
  else if (s.unit u).state.holdsData then
    let under := (s.unit u).valid < k
    let s := s.modUnit u (fun r => { r with valid := r.valid - k })
    (if under then s.modCounters (fun c => { c with underruns := bump c.underruns 1 }) else s, .ok)
  else (s.modCounters (fun c => { c with invalidatesIgnored := bump c.invalidatesIgnored 1 }), .wrongState)

/-- INVALIDATE, taken in every device state (R131). -/
def State.takeInvalidate (tag : BitVec 16) (count : BitVec 8) (entries : List InvalidateEntry) (s : State) : State :=
  if !listOk count then s.reply tag .badRequest
  else
    let r := handleEntries invalidateOne entries s
    r.1.reply tag .ok (.entries r.2)

/-- INVALIDATE. -/
def execInvalidate (tag : BitVec 16) (count : BitVec 8) (entries : List InvalidateEntry) (s : State) :
    Host.Outcome State Fault Refusal :=
  .next (s.control tag (listFits count entries.length) (State.takeInvalidate tag count entries))

/-! ## RECLAIM_UNIT -/

/-- RECLAIM_UNIT, taken (R133). In HOLDING the unit id is not looked at (log 16). -/
def State.takeReclaim (tag unit : BitVec 16) (s : State) : State :=
  let u := unit.toNat
  let r := s.unit u
  if s.device = .holding then s.reply tag .wrongState
  else if !unitIdOk unit then s.reply tag .badRequest
  else if r.state = .sealed then
    let place := r.owner.getD (0, 0)
    (s.reclaim u).reply tag .ok (.reclaim place.1 place.2 r.valid (ageOf s.epoch r))
  else s.reply tag .wrongState

/-- RECLAIM_UNIT. -/
def execReclaimUnit (tag unit : BitVec 16) (s : State) : Host.Outcome State Fault Refusal :=
  .next (s.control tag true (State.takeReclaim tag unit))

end Sys2Proof.Machine
end

