-- ==== Sys2Proof/Machine/Writes.lean ====
section
/-! DEFINITION. WRITE (R5, R39, R41, R42) and SECTOR_OFFER (R46, R68). -/

namespace Sys2Proof.Machine

/-- The checks at arrival, in R41's order: the status of the refusal, or none. -/
def State.arrivalRefusal (s : State) (tenant : BitVec 16) (count : BitVec 8) : Option Status :=
  if !tenantIdOk tenant || count.toNat = 0 || Config.stripeSlots < count.toNat then some .badRequest
  else
    match s.device with
    | .config => some .wrongState
    | .holding => some .holdAbort
    | .held => some .holdAbort
    | .running => if (s.tenant tenant.toNat).isServed then none else some .tenantState

/-- The relocation flag of a write header: bit 0 of the flags byte (section 1.2). -/
def relocationFlag (flags : BitVec 8) : Bool := flags.getLsbD 0

/-- The stream a frame is classified to, and whether a map entry was clamped (R39). -/
def classify (p : Policy) (hint : BitVec 8) (relocation : Bool) : Nat × Bool :=
  if relocation then (Config.relocationStream, false)
  else
    let entry := p.streamMap.getD (hint.toNat % 16) 0
    if entry < p.activeStreams then (entry, false) else (0, true)

/-- A frame record joins the tail of its tenant's queue; at the head it is served at once (R42, R48). -/
def State.appendFrame (s : State) (f : Frame) : State :=
  let first := (s.headOf f.tenant).isNone
  let s := { s with intake := s.intake ++ [f] }
  if first then s.raiseHead f.tenant else s

/-- A write that passes the arrival checks is classified and queued (R39, R42). -/
def State.acceptWrite (s : State) (tag tenant : BitVec 16) (hint flags : BitVec 8) (writeTag : BitVec 32)
    (sectors : List Sector) : State :=
  let t := tenant.toNat
  let c := classify (s.tenant t).active hint (relocationFlag flags)
  let s := if c.2 then s.modTenantCounters t (fun k => { k with mapClamps := bump k.mapClamps 1 }) else s
  s.appendFrame
    { tag := tag
      tenant := t
      stream := c.1
      relocation := relocationFlag flags
      writeTag := writeTag
      sectors := sectors
      staged := 0
      settlement := .unsettled
      creditWaited := false
      step := .queued }

/-- A WRITE that is taken: NO_SLOT with 64 slots held (R5), else R41. -/
def State.takeWrite (tag tenant : BitVec 16) (hint flags : BitVec 8) (writeTag : BitVec 32) (count : BitVec 8)
    (sectors : List Sector) (s : State) : State :=
  if Config.writeSlots ≤ s.intake.length then s.reply tag .noSlot
  else
    match s.arrivalRefusal tenant count with
    | some status => s.reply tag status
    | none => (s.acceptWrite tag tenant hint flags writeTag sectors).conclude

/-- WRITE. -/
def execWrite (tag tenant : BitVec 16) (hint flags : BitVec 8) (writeTag : BitVec 32) (count : BitVec 8)
    (sectors : List Sector) (s : State) : Host.Outcome State Fault Refusal :=
  .next (s.receive (sectorsFit count sectors.length) (State.takeWrite tag tenant hint flags writeTag count sectors))

/-- SECTOR_OFFER. -/
def execSectorOffer (tenant : BitVec 10) (s : State) : Host.Outcome State Fault Refusal :=
  .next (s.offer tenant.toNat).conclude

end Sys2Proof.Machine
end

