-- ==== Sys2Proof/Machine/Dispatch.lean ====
section
/-! DEFINITION. Every command to its meaning, one arm for each row of the table. -/

namespace Sys2Proof.Machine

open Host

def exec (i : Instr) (s : State) : Host.Outcome State Fault Refusal :=
  match i with
  | .write tag tenant hint flags writeTag count sectors => Sys2Proof.Machine.execWrite tag tenant hint flags writeTag count sectors s
  | .configure tag raw => Sys2Proof.Machine.execConfigure tag raw s
  | .start tag => Sys2Proof.Machine.execStart tag s
  | .declareUnits tag count entries => Sys2Proof.Machine.execDeclareUnits tag count entries s
  | .supplyUnits tag count entries => Sys2Proof.Machine.execSupplyUnits tag count entries s
  | .releaseUnits tag force count entries => Sys2Proof.Machine.execReleaseUnits tag force count entries s
  | .invalidate tag count entries => Sys2Proof.Machine.execInvalidate tag count entries s
  | .reclaimUnit tag unit => Sys2Proof.Machine.execReclaimUnit tag unit s
  | .admitTenant tag tenant raw => Sys2Proof.Machine.execAdmitTenant tag tenant raw s
  | .setPolicy tag tenant whenCode raw => Sys2Proof.Machine.execSetPolicy tag tenant whenCode raw s
  | .cancelPending tag tenant => Sys2Proof.Machine.execCancelPending tag tenant s
  | .suspendTenant tag tenant => Sys2Proof.Machine.execSuspendTenant tag tenant s
  | .resumeTenant tag tenant => Sys2Proof.Machine.execResumeTenant tag tenant s
  | .removeTenant tag tenant mode => Sys2Proof.Machine.execRemoveTenant tag tenant mode s
  | .flushTenant tag tenant => Sys2Proof.Machine.execFlushTenant tag tenant s
  | .startScan tag scope tenant => Sys2Proof.Machine.execStartScan tag scope tenant s
  | .takeNomination tag scope tenant => Sys2Proof.Machine.execTakeNomination tag scope tenant s
  | .forceEpoch tag quiet => Sys2Proof.Machine.execForceEpoch tag quiet s
  | .policyHold tag code => Sys2Proof.Machine.execPolicyHold tag code s
  | .grantCredits tag grant => Sys2Proof.Machine.execGrantCredits tag grant s
  | .query tag target clear => Sys2Proof.Machine.execQuery tag target clear s
  | .resumeFromHold tag => Sys2Proof.Machine.execResumeFromHold tag s
  | .deviceReset tag => Sys2Proof.Machine.execDeviceReset tag s
  | .deviceResetTakesEffect hold => Sys2Proof.Machine.execDeviceResetTakesEffect hold s
  | .resetN hold => Sys2Proof.Machine.execResetN hold s
  | .linkResync tag => Sys2Proof.Machine.execLinkResync tag s
  | .resyncDelimiter => Sys2Proof.Machine.execResyncDelimiter s
  | .unassignedFrame tag => Sys2Proof.Machine.execUnassignedFrame tag s
  | .frameDiscard why => Sys2Proof.Machine.execFrameDiscard why s
  | .sendReply => Sys2Proof.Machine.execSendReply s
  | .sendPlacementReport => Sys2Proof.Machine.execSendPlacementReport s
  | .sendNotice => Sys2Proof.Machine.execSendNotice s
  | .sectorOffer tenant => Sys2Proof.Machine.execSectorOffer tenant s
  | .programDone die seq unit => Sys2Proof.Machine.execProgramDone die seq unit s
  | .mediaReportCorrupt => Sys2Proof.Machine.execMediaReportCorrupt s
  | .programFail die seq unit => Sys2Proof.Machine.execProgramFail die seq unit s
  | .programTimeout die => Sys2Proof.Machine.execProgramTimeout die s
  | .sealDone die seq unit => Sys2Proof.Machine.execSealDone die seq unit s
  | .sealFail die seq unit => Sys2Proof.Machine.execSealFail die seq unit s
  | .sealTimeout die => Sys2Proof.Machine.execSealTimeout die s
  | .epochBoundary => Sys2Proof.Machine.execEpochBoundary s
  | .scanVisit => Sys2Proof.Machine.execScanVisit s
  | .drainDeadlineExpiry tenant => Sys2Proof.Machine.execDrainDeadlineExpiry tenant s
  | .holdAsserted => Sys2Proof.Machine.execHoldAsserted s
  | .holdDeasserted => Sys2Proof.Machine.execHoldDeasserted s

end Sys2Proof.Machine
end

