-- ==== Sys2Proof/Machine/Layout.lean ====
section
/-! DEFINITION. The bytes of the frames the part sends (sections 1.1 and 1.2), by the field rule of R2. The codes of the
states in a snapshot record are not in the manual: each is a free value of Config (log 24). -/

namespace Sys2Proof.Machine

/-- n as k bytes, most significant first (section 1.1). -/
def bytesOf : Nat → Nat → List Byte
  | 0, _ => []
  | k + 1, n => BitVec.ofNat 8 (n / 256 ^ k) :: bytesOf k n

/-- The number a list of bytes spells, most significant first (section 1.1). -/
def numberOf (l : List Byte) : Nat := l.foldl (fun n b => n * 256 + b.toNat) 0

/-! ## CRC-32 -/

/-- The generator polynomial with the coefficient of x^31 in the lowest bit (section 1.1). -/
def crcPolynomial : BitVec 32 := 0xEDB88320#32

/-- One bit through the register, least significant end first. -/
def crcBit (r : BitVec 32) : BitVec 32 := if r.getLsbD 0 then (r >>> 1) ^^^ crcPolynomial else r >>> 1

/-- One byte enters the register, its least significant bit first. -/
def crcByte (r : BitVec 32) (b : Byte) : BitVec 32 := (List.range 8).foldl (fun r _ => crcBit r) (r ^^^ b.setWidth 32)

/-- The CRC-32 of a frame: the register starts at all ones and the final value is complemented. -/
def crcOf (l : List Byte) : BitVec 32 := ~~~(l.foldl crcByte 0xFFFFFFFF#32)

/-- The four bytes of the CRC-32, least significant first. -/
def crcBytes (l : List Byte) : List Byte := (bytesOf 4 (crcOf l).toNat).reverse

/-- A frame after its start delimiter: header, payload and CRC-32 (section 1.2). -/
def frameBytes (kind tag : Nat) (payload : List Byte) : List Byte :=
  let body := bytesOf 1 kind ++ bytesOf 2 tag ++ bytesOf 3 payload.length ++ payload
  body ++ crcBytes body

/-! ## Codes -/

/-- Status codes (section 1.2). -/
def Status.code : Status → Nat
  | .ok => 0
  | .accepted => 1
  | .wrongState => 2
  | .badRequest => 3
  | .busy => 4
  | .noSlot => 5
  | .tenantState => 6
  | .noSpace => 7
  | .aborted => 8
  | .holdAbort => 9
  | .holdPartial => 10
  | .none => 11
  | .unitsRemain => 12
  | .noCapacity => 13
  | .stillValid => 14

/-- A flag byte. -/
def flagCode (on : Bool) : Nat := if on then 1 else 0

/-- Scan trigger source codes (R14). -/
def TriggerSource.code : TriggerSource → Nat
  | .none => 0
  | .epoch => 1
  | .supplyLow => 2
  | .continuous => 3

def NoUnit.code : NoUnit → Nat
  | .spill => 0
  | .wait => 1
  | .refuse => 2

def FlushMode.code : FlushMode → Nat
  | .pad => 0
  | .holdup => 1

def WatchSource.code : WatchSource → Nat
  | .none => 0
  | .victimValid => 1
  | .creditLeft => 2
  | .evictions => 3

/-! ## Payloads -/

/-- The eleven settings (R14). -/
def Settings.bytes (v : Settings) : List Byte :=
  bytesOf 2 v.epochLength ++ bytesOf 1 v.programTimeout ++ bytesOf 2 v.drainDeadline ++ bytesOf 2 v.parkedLimit
    ++ bytesOf 1 v.groupLimit ++ bytesOf 2 v.lowWater ++ bytesOf 1 (flagCode v.epochNotice)
    ++ bytesOf 1 (flagCode v.autoResume) ++ bytesOf 1 (flagCode v.holdupArmed) ++ bytesOf 1 v.trigger.code
    ++ bytesOf 1 v.scanRepetition

/-- A policy record: 31 bytes (section 2.2). -/
def Policy.bytes (p : Policy) : List Byte :=
  bytesOf 1 p.activeStreams ++ p.streamMap.flatMap (bytesOf 1) ++ bytesOf 3 p.allowance ++ bytesOf 1 p.laneQuota
    ++ bytesOf 1 p.laneFloor ++ [p.poolMask] ++ bytesOf 1 p.noUnit.code ++ bytesOf 1 p.flushMode.code
    ++ bytesOf 1 p.watchSource.code ++ bytesOf 2 p.watchLow ++ bytesOf 2 p.watchHigh ++ bytesOf 1 p.watchDepth

/-! ## Snapshot records

The fields stand in R18's order. A state whose code the manual does not give is sent as `Config.snapshotCode` of the kind of
state and its place in the kind's list; the kinds are numbered here (log 24). -/

/-- An optional field: a presence flag of one byte, and the value where there is one (R18, log 24). -/
def optionalBytes : Option (List Byte) → List Byte
  | none => [0#8]
  | some l => 1#8 :: l

def DeviceState.bytes (v : DeviceState) : List Byte :=
  [Config.snapshotCode 0 (match v with | .config => 0 | .running => 1 | .holding => 2 | .held => 3)]

def TenantState.bytes (v : TenantState) : List Byte :=
  [Config.snapshotCode 1
    (match v with | .vacant => 0 | .active => 1 | .suspended => 2 | .draining => 3 | .removed => 4)]

def Side.bytes (v : Side) : List Byte := [Config.snapshotCode 2 (match v with | .none => 0 | .over => 1 | .under => 2)]

def Binding.bytes (v : Binding) : List Byte :=
  [Config.snapshotCode 3 (match v with | .unbound => 0 | .waiting => 1 | .bound _ => 2)]

def LaneState.bytes (v : LaneState) : List Byte :=
  [Config.snapshotCode 4 (match v with | .free => 0 | .unitWait => 1 | .active => 2 | .closing => 3)]

def HalfState.bytes (v : HalfState) : List Byte :=
  [Config.snapshotCode 5 (match v with | .empty => 0 | .filling => 1 | .full => 2 | .programming => 3)]

def HalfId.bytes (v : HalfId) : List Byte := [Config.snapshotCode 6 (match v with | .a => 0 | .b => 1)]

def UnitState.bytes (v : UnitState) : List Byte :=
  [Config.snapshotCode 7
    (match v with
      | .unknown => 0 | .vacant => 1 | .free => 2 | .opened => 3 | .parked => 4 | .sealed => 5 | .reclaiming => 6
      | .retired => 7)]

/-- The device counters in R19's order. -/
def DeviceCounters.bytes (c : DeviceCounters) : List Byte :=
  [c.linkErrors, c.staleReports, c.programFails, c.programTimeouts, c.triggersIgnored, c.underruns, c.invalidatesIgnored,
    c.forcedReleases, c.sectorsLost].flatMap (bytesOf 4)

/-- The tenant counters in R19's order. -/
def TenantCounters.bytes (c : TenantCounters) : List Byte :=
  [c.accepted, c.placed, c.pad, c.evictions, c.mapClamps, c.creditWaits, c.noSpace].flatMap (bytesOf 4)

/-- A tenant with a stream index. -/
def streamBytes (p : Nat × Nat) : List Byte := bytesOf 2 p.1 ++ bytesOf 1 p.2

/-- A unit with a stripe of it, from 0 to 255. -/
def stripeBytes (p : Nat × Nat) : List Byte := bytesOf 2 p.1 ++ bytesOf 1 p.2

/-- The scan state in a DEVICE snapshot: idle or running, for which R18 gives no code (log 24). -/
def scanBytes (running : Bool) : List Byte := [Config.snapshotCode 8 (if running then 1 else 0)]

def DeviceSnapshot.bytes (r : DeviceSnapshot) : List Byte :=
  r.device.bytes ++ bytesOf 4 r.epoch.toNat ++ r.settings.bytes ++ bytesOf 1 (flagCode r.policyHold)
    ++ scanBytes r.scanRunning ++ bytesOf 2 r.credit ++ bytesOf 2 r.attentionLength
    ++ bytesOf 2 r.placementReady ++ bytesOf 2 r.placementReserved ++ bytesOf 1 r.freeWriteSlots
    ++ bytesOf 1 r.freeControlSlots ++ bytesOf 2 r.parked ++ r.counters.bytes

def TenantSnapshot.bytes (r : TenantSnapshot) : List Byte :=
  r.state.bytes ++ r.active.bytes ++ optionalBytes (r.pendingPolicy.map Policy.bytes) ++ bytesOf 3 r.credit
    ++ bytesOf 2 r.owned ++ bytesOf 1 r.bound ++ bytesOf 1 r.queueLength ++ bytesOf 1 r.flushes
    ++ bytesOf 1 r.watch.count ++ r.watch.side.bytes ++ r.counters.bytes

def StreamCtx.bytes (r : StreamCtx) : List Byte :=
  r.binding.bytes ++ optionalBytes (match r.binding with | .bound l => some (bytesOf 1 l) | _ => none)
    ++ optionalBytes (r.parkedUnit.map stripeBytes) ++ bytesOf 4 r.accepted ++ bytesOf 4 r.placed

def HalfSnapshot.bytes (r : HalfSnapshot) : List Byte :=
  r.state.bytes ++ bytesOf 1 r.real ++ bytesOf 1 r.pad ++ optionalBytes (r.assigned.map stripeBytes)
    ++ bytesOf 1 (flagCode r.sealMark) ++ bytesOf 1 r.refs

/-- The LANE snapshot, with the first-full mark at its end (log 42). -/
def LaneSnapshot.bytes (r : LaneSnapshot) : List Byte :=
  r.state.bytes ++ optionalBytes (r.stream.map streamBytes) ++ optionalBytes (r.current.map stripeBytes)
    ++ bytesOf 1 r.failRun ++ optionalBytes (r.position.map (bytesOf 1)) ++ r.halfA.bytes ++ r.halfB.bytes
    ++ optionalBytes (r.firstFull.map HalfId.bytes)

/-- The UNIT snapshot. The seal epoch is sent modulo 2^32; age and score are sent where the unit is SEALED, as its state tells
(log 24). -/
def UnitSnapshot.bytes (r : UnitSnapshot) : List Byte :=
  r.state.bytes ++ optionalBytes (r.owner.map streamBytes) ++ bytesOf 2 r.valid ++ bytesOf 2 r.programmed
    ++ bytesOf 2 r.nextStripe ++ optionalBytes (r.sealEpoch.map (fun e => bytesOf 4 (e % 4294967296).toNat))
    ++ (match r.ageScore with | some (age, score) => bytesOf 1 age ++ bytesOf 3 score | none => [])
    ++ bytesOf 1 (flagCode r.failed)

def PoolsSnapshot.bytes (r : PoolsSnapshot) : List Byte :=
  r.pools.flatMap (fun p => bytesOf 2 p.1 ++ optionalBytes (p.2.map (bytesOf 2))) ++ bytesOf 1 r.unitWait ++ [r.lowMask]

/-- A nomination as a snapshot shows it: unit, owner, valid count and score (R18). -/
def WorkEntry.bytes (e : WorkEntry) : List Byte :=
  bytesOf 2 e.unit ++ bytesOf 2 e.owner ++ bytesOf 2 e.valid ++ bytesOf 3 e.score

/-- A snapshot record (R18). The nomination list stands behind its length in one byte (log 24). -/
def Snapshot.bytes : Snapshot → List Byte
  | .device r => r.bytes
  | .tenant r => r.bytes
  | .stream r => r.bytes
  | .lane r => r.bytes
  | .unit r => r.bytes
  | .pools r => r.bytes
  | .nominations l => bytesOf 1 l.length ++ l.flatMap WorkEntry.bytes

/-! ## Frames sent -/

/-- The result fields of a reply, each in the fewest whole bytes that hold its range (R2). -/
def ReplyBody.bytes : ReplyBody → List Byte
  | .bare => []
  | .settings v => v.bytes
  | .policy p => p.bytes
  | .write stream staged => bytesOf 1 stream ++ bytesOf 1 staged
  | .entries l => l.flatMap (fun status => bytesOf 1 status.code)
  | .credit n => bytesOf 2 n
  | .epoch n => bytesOf 4 n.toNat
  | .hold on => bytesOf 1 (flagCode on)
  | .removal ended owned => bytesOf 1 ended ++ bytesOf 2 owned
  | .flush awaited => bytesOf 2 awaited
  | .reclaim owner stream valid age => bytesOf 2 owner ++ bytesOf 1 stream ++ bytesOf 2 valid ++ bytesOf 1 age
  | .nomination unit owner valid score => bytesOf 2 unit ++ bytesOf 2 owner ++ bytesOf 2 valid ++ bytesOf 3 score
  | .snapshot r => r.bytes

/-- A placement extent: ten bytes (section 1.2). -/
def Extent.bytes (e : Extent) : List Byte :=
  bytesOf 4 e.writeTag.toNat ++ bytesOf 1 e.firstSector ++ bytesOf 1 e.count ++ bytesOf 2 e.unit ++ bytesOf 1 e.stripe
    ++ bytesOf 1 e.firstSlot

/-- A notice entry: six bytes (section 1.2). -/
def NoticeEntry.bytes (e : NoticeEntry) : List Byte :=
  bytesOf 1 e.kind.code ++ bytesOf 1 e.repeats ++ bytesOf 4 e.detail.toNat

/-- The bytes of a frame the part sends, after its start delimiter (section 1.2). -/
def TxFrame.bytes : TxFrame → List Byte
  | .reply r => frameBytes 128 r.tag.toNat (bytesOf 1 r.status.code ++ r.body.bytes)
  | .placement t x extents =>
    frameBytes 129 0 (bytesOf 2 t ++ bytesOf 1 x ++ bytesOf 1 extents.length ++ extents.flatMap Extent.bytes)
  | .notice src entries =>
    frameBytes 130 0 (bytesOf 2 src ++ bytesOf 1 entries.length ++ entries.flatMap NoticeEntry.bytes)

end Sys2Proof.Machine
end

