-- ==== Sys2Proof/Machine/Receiver.lean ====
section
/-! DEFINITION. The receiver of the Command Link: from the symbols of the line code to commands (R1 to R4, section 1.2). The
frame being received stands in State; the frame's command is run as its last symbol arrives (log 31). -/

namespace Sys2Proof.Machine

/-- A symbol of the line code (section 1.1). -/
inductive Symbol where
  | byte (b : Byte)
  | startDelimiter
  | resyncDelimiter
  deriving DecidableEq, Repr

/-- The k bytes of a payload from an offset, as a field of w bits. -/
def fieldAt (w k offset : Nat) (payload : List Byte) : BitVec w :=
  BitVec.ofNat w (numberOf ((payload.drop offset).take k))

/-- A one-byte field. -/
def byteAt (offset : Nat) (payload : List Byte) : BitVec 8 := fieldAt 8 1 offset payload

/-- A two-byte field. -/
def pairAt (offset : Nat) (payload : List Byte) : BitVec 16 := fieldAt 16 2 offset payload

/-- n entries of k bytes each, read one after the other from the start of a list of bytes. -/
def entriesOf {ε : Type} (k : Nat) (read : List Byte → ε) : Nat → List Byte → List ε
  | 0, _ => []
  | n + 1, l => read (l.take k) :: entriesOf k read n (l.drop k)

/-- The entries of a list request whose count byte stands at an offset, each of k bytes; none when the payload's length is
not the one implied (R2). -/
def listAt {ε : Type} (offset k : Nat) (read : List Byte → ε) (payload : List Byte) : Option (BitVec 8 × List ε) :=
  let count := byteAt offset payload
  let n := if 1 ≤ count.toNat ∧ count.toNat ≤ Config.listEntries then count.toNat else 0
  if payload.length = offset + 1 + k * n then some (count, entriesOf k read n (payload.drop (offset + 1))) else none

/-- A payload of the length implied, read. -/
def fixed {ε : Type} (n : Nat) (payload : List Byte) (read : List Byte → ε) : Option ε :=
  if payload.length = n then some (read payload) else none

/-- The settings of CONFIGURE (R14): 15 bytes. -/
def readSettings (p : List Byte) : RawSettings where
  epochLength := pairAt 0 p
  programTimeout := byteAt 2 p
  drainDeadline := pairAt 3 p
  parkedLimit := pairAt 5 p
  groupLimit := byteAt 7 p
  lowWater := pairAt 8 p
  epochNotice := byteAt 10 p
  autoResume := byteAt 11 p
  holdupArmed := byteAt 12 p
  trigger := byteAt 13 p
  scanRepetition := byteAt 14 p

/-- A policy record (section 2.2): 31 bytes. -/
def readPolicy (p : List Byte) : RawPolicy where
  activeStreams := byteAt 0 p
  streamMap := (List.range 16).map (fun i => byteAt (i + 1) p)
  allowance := fieldAt 24 3 17 p
  laneQuota := byteAt 20 p
  laneFloor := byteAt 21 p
  poolMask := byteAt 22 p
  noUnit := byteAt 23 p
  flushMode := byteAt 24 p
  watchSource := byteAt 25 p
  watchLow := pairAt 26 p
  watchHigh := pairAt 28 p
  watchDepth := byteAt 30 p

/-- A DECLARE_UNITS entry (R129): 9 bytes. -/
def readDeclare (p : List Byte) : DeclareEntry where
  unit := pairAt 0 p
  state := byteAt 2 p
  owner := pairAt 3 p
  stream := byteAt 5 p
  valid := pairAt 6 p
  age := byteAt 8 p

/-- An INVALIDATE entry (R131): 4 bytes. -/
def readInvalidate (p : List Byte) : InvalidateEntry := ⟨pairAt 0 p, pairAt 2 p⟩

/-- The target of a QUERY (R17): its code and its id fields. -/
def readTarget (p : List Byte) : Option QueryTarget :=
  let code := (byteAt 0 p).toNat
  match code with
  | 0 => fixed 2 p (fun _ => .device)
  | 1 => fixed 4 p (fun p => .tenant (pairAt 2 p))
  | 2 => fixed 5 p (fun p => .stream (pairAt 2 p) (byteAt 4 p))
  | 3 => fixed 3 p (fun p => .lane (byteAt 2 p))
  | 4 => fixed 4 p (fun p => .unit (pairAt 2 p))
  | 5 => fixed 2 p (fun _ => .pools)
  | 6 => fixed 2 p (fun _ => .nominations)
  | _ => fixed 2 p (fun _ => .unassigned (Fin.ofNat 249 (code - 7)))

/-- A WRITE payload: the header and, with a valid count, the sectors (R2, section 1.2). -/
def readWrite (tag : BitVec 16) (p : List Byte) : Option Instr :=
  let count := byteAt 8 p
  let n := if 1 ≤ count.toNat ∧ count.toNat ≤ Config.stripeSlots then count.toNat else 0
  if p.length = 12 + 4096 * n then
    some (.write tag (pairAt 0 p) (byteAt 2 p) (byteAt 3 p) (fieldAt 32 4 4 p) count
      (entriesOf 4096 (fun l => BitVec.ofNat 32768 (numberOf l)) n (p.drop 12)))
  else none

/-- The kinds of frame from 2 to 9 (section 1.2). -/
def readLow (kind : Nat) (tag : BitVec 16) (p : List Byte) : Option Instr :=
  match kind with
  | 2 => fixed 15 p (fun p => .configure tag (readSettings p))
  | 3 => fixed 0 p (fun _ => .start tag)
  | 4 => (listAt 0 9 readDeclare p).map (fun r => .declareUnits tag r.1 r.2)
  | 5 => (listAt 0 2 (pairAt 0) p).map (fun r => .supplyUnits tag r.1 r.2)
  | 6 => (listAt 1 2 (pairAt 0) p).map (fun r => .releaseUnits tag (byteAt 0 p) r.1 r.2)
  | 7 => (listAt 0 4 readInvalidate p).map (fun r => .invalidate tag r.1 r.2)
  | 8 => fixed 2 p (fun p => .reclaimUnit tag (pairAt 0 p))
  | 9 => fixed 33 p (fun p => .admitTenant tag (pairAt 0 p) (readPolicy (p.drop 2)))
  | _ => none

/-- The kinds of frame from 10 to 25 that a host sends (section 1.2). -/
def readHigh (kind : Nat) (tag : BitVec 16) (p : List Byte) : Option Instr :=
  match kind with
  | 10 => fixed 34 p (fun p => .setPolicy tag (pairAt 0 p) (byteAt 2 p) (readPolicy (p.drop 3)))
  | 11 => fixed 2 p (fun p => .cancelPending tag (pairAt 0 p))
  | 12 => fixed 2 p (fun p => .suspendTenant tag (pairAt 0 p))
  | 13 => fixed 2 p (fun p => .resumeTenant tag (pairAt 0 p))
  | 14 => fixed 3 p (fun p => .removeTenant tag (pairAt 0 p) (byteAt 2 p))
  | 15 => fixed 2 p (fun p => .flushTenant tag (pairAt 0 p))
  | 16 => fixed 3 p (fun p => .startScan tag (byteAt 0 p) (pairAt 1 p))
  | 17 => fixed 3 p (fun p => .takeNomination tag (byteAt 0 p) (pairAt 1 p))
  | 18 => fixed 1 p (fun p => .forceEpoch tag (byteAt 0 p))
  | 19 => fixed 1 p (fun p => .policyHold tag (byteAt 0 p))
  | 20 => fixed 2 p (fun p => .grantCredits tag (pairAt 0 p))
  | 21 => (readTarget p).map (fun target => .query tag target (byteAt 1 p))
  | 22 => fixed 0 p (fun _ => .resumeFromHold tag)
  | 24 => fixed 0 p (fun _ => .deviceReset tag)
  | 25 => fixed 0 p (fun _ => .linkResync tag)
  | _ => none

/-- A kind the host may send and the part knows (section 1.2). -/
def kindAssigned (kind : Nat) : Bool := 1 ≤ kind && kind ≤ 25 && kind ≠ 23

/-- A kind only the part sends (R1). -/
def kindOfPart (kind : Nat) : Bool := 128 ≤ kind && kind ≤ 130

/-- The request a payload of an assigned kind holds; none for a length its kind does not imply (R2). -/
def readFrame (kind : Nat) (tag : BitVec 16) (p : List Byte) : Option Instr :=
  if kind = 1 then readWrite tag p else if kind ≤ 9 then readLow kind tag p else readHigh kind tag p

/-- A whole frame, checked (R1): six header bytes, the payload and four CRC bytes. -/
def takeFrame (frame : List Byte) : Instr :=
  let body := frame.take (frame.length - 4)
  let kind := (byteAt 0 frame).toNat
  if frame.drop (frame.length - 4) ≠ crcBytes body then .frameDiscard .badCrc
  else if kindOfPart kind then .frameDiscard .partKind
  else if kindAssigned kind then (readFrame kind (pairAt 1 frame) (body.drop 6)).getD (.frameDiscard .wrongLength)
  else .unassignedFrame (pairAt 1 frame)

/-- The bytes read of the frame in progress, the last first; none while the receiver looks for a start delimiter. -/
abbrev Partial := Option (List Byte)

/-- What a symbol brings: more of a frame, or the command that ends what was being received. -/
inductive Received where
  | reading (read : Partial)
  | ends (c : Instr)
  deriving DecidableEq, Repr

/-- The byte that follows those read of a frame (R1). -/
def nextByte (read : List Byte) (b : Byte) : Received :=
  let read := b :: read
  let length := numberOf (((read.reverse).drop 3).take 3)
  if read.length < 6 then .reading (some read)
  else if Config.frameLengthMax < length then .ends (.frameDiscard .tooLong)
  else if read.length = 6 + length + 4 then .ends (takeFrame read.reverse)
  else .reading (some read)

/-- One symbol at the receiver (R1, R3). -/
def nextSymbol : Partial → Symbol → Received
  | none, .byte _ => .reading none
  | some read, .byte b => nextByte read b
  | none, .startDelimiter => .reading (some [])
  | some _, .startDelimiter => .ends (.frameDiscard .newDelimiter)
  | _, .resyncDelimiter => .ends .resyncDelimiter

/-- A symbol of the link arrives. While the receiver is blocked it is not accepted: the host's transmitter waits (R4), or the
frame is dropped uncounted (R15). Otherwise the frame being received grows, or its command is run (log 31). -/
def State.takeSymbol (symbol : Symbol) (s : State) : Host.Outcome State Fault Refusal :=
  if s.rxBlocked then .next s
  else
    match nextSymbol s.receiving symbol with
    | .reading read => .next { s with receiving := read }
    | .ends c => exec c s

end Sys2Proof.Machine
end

