-- ==== Sys2Proof/Safety.lean ====
section
/-! DEFINITION. What it is for a command to complete and for a step not to stop; when the receiver takes a frame; the
invariants every step keeps; and what the internal events at the end of a command leave as it is. -/

namespace Sys2Proof

/-- The command has a next state from s: it neither faults nor is refused. -/
def completes (c : Instr) (s : Machine.State) : Prop := ∃ t, Machine.exec c s = .next t

/-- The machine does not stop at s. -/
def runsOn (s : Machine.State) : Prop := ∃ t, Machine.step s = .next t

/-- The link tag of a control request, a frame that claims a control slot (R6). -/
def Instr.controlTag : Instr → Option (BitVec 16)
  | .configure tag _ => some tag
  | .start tag => some tag
  | .declareUnits tag _ _ => some tag
  | .supplyUnits tag _ _ => some tag
  | .releaseUnits tag _ _ _ => some tag
  | .invalidate tag _ _ => some tag
  | .reclaimUnit tag _ => some tag
  | .admitTenant tag _ _ => some tag
  | .setPolicy tag _ _ _ => some tag
  | .cancelPending tag _ => some tag
  | .suspendTenant tag _ => some tag
  | .resumeTenant tag _ => some tag
  | .removeTenant tag _ _ => some tag
  | .flushTenant tag _ => some tag
  | .startScan tag _ _ => some tag
  | .takeNomination tag _ _ => some tag
  | .forceEpoch tag _ => some tag
  | .policyHold tag _ => some tag
  | .grantCredits tag _ => some tag
  | .query tag _ _ => some tag
  | .resumeFromHold tag => some tag
  | _ => none

/-- The command is something the receiver takes from the Command Link: a frame or a resync delimiter. -/
def Instr.isReceived : Instr → Bool
  | .write _ _ _ _ _ _ _ => true
  | .configure _ _ => true
  | .start _ => true
  | .declareUnits _ _ _ => true
  | .supplyUnits _ _ _ => true
  | .releaseUnits _ _ _ _ => true
  | .invalidate _ _ _ => true
  | .reclaimUnit _ _ => true
  | .admitTenant _ _ _ => true
  | .setPolicy _ _ _ _ => true
  | .cancelPending _ _ => true
  | .suspendTenant _ _ => true
  | .resumeTenant _ _ => true
  | .removeTenant _ _ _ => true
  | .flushTenant _ _ => true
  | .startScan _ _ _ => true
  | .takeNomination _ _ _ => true
  | .forceEpoch _ _ => true
  | .policyHold _ _ => true
  | .grantCredits _ _ => true
  | .query _ _ _ => true
  | .resumeFromHold _ => true
  | .deviceReset _ => true
  | .deviceResetTakesEffect _ => false
  | .resetN _ => false
  | .linkResync _ => true
  | .resyncDelimiter => true
  | .unassignedFrame _ => true
  | .frameDiscard _ => true
  | .sendReply => false
  | .sendPlacementReport => false
  | .sendNotice => false
  | .sectorOffer _ => false
  | .programDone _ _ _ => false
  | .mediaReportCorrupt => false
  | .programFail _ _ _ => false
  | .programTimeout _ => false
  | .sealDone _ _ _ => false
  | .sealFail _ _ _ => false
  | .sealTimeout _ => false
  | .epochBoundary => false
  | .scanVisit => false
  | .drainDeadlineExpiry _ => false
  | .holdAsserted => false
  | .holdDeasserted => false

namespace Machine

/-! ## When a command is taken -/

/-- The receiver takes the next frame: it is not blocked (R4, R15), and no resync delimiter came before the frame (R3). -/
abbrev State.takesFrames (s : State) : Prop := s.rxBlocked = false ∧ s.resyncArmed = false

/-- The receiver takes the next frame, and a control slot is free (R6). -/
abbrev State.takesControl (s : State) : Prop := s.takesFrames ∧ s.flushes.length < Config.controlSlots

/-- No internal event waits, no hold-up flush has come to its end, and no drain is complete: nothing is left to be done at
the end of a command (logs 8, 20). -/
abbrev State.isQuiet (s : State) : Prop :=
  s.work = Work.empty ∧ s.closeDue = none ∧ ¬(s.device = .holding ∧ s.flushDone = true)
    ∧ ∀ t ∈ rowKeys s.tenants, s.drained t = false

/-! ## After a reset -/

/-- What a device reset leaves (R16, R20, R37, R38, R57, R58, R86, R121, R122, R140, R153, R154, R158, R159, R176): `hold` is the
HOLD input as the reset ends. MDL_RST, the work list and the last frame sent are the model's own (logs 6, 8, 21). -/
structure State.AfterReset (hold : Bool) (s : State) : Prop where
  device : s.device = .config
  settings : s.settings = ⟨100, 20, 5000, 256, 3, 16, false, false, false, .none, 0⟩
  slots : s.intake = [] ∧ s.flushes = []
  replies : s.replies = [] ∧ s.tx = none ∧ s.receiving = none ∧ s.resyncArmed = false ∧ s.resetWait = none
  reports : s.credit = 0 ∧ s.preference = .placement ∧ s.placement = []
  notices : s.attention = [] ∧ ∀ src, s.pendingSet src = []
  counters : s.counters = ⟨0, 0, 0, 0, 0, 0, 0, 0, 0⟩
  drive : (s.tenant 0).state = .active
  vacant : ∀ t, t ≠ 0 → (s.tenant t).state = .vacant
  contexts : ∀ t, (s.tenant t).active =
      ⟨1, [0, 0, 0, 0, 0, 0, 0, 0, 0, 0, 0, 0, 0, 0, 0, 0], 0, 2, 1, 255#8, .wait, .pad, .none, 0, 65535, 0⟩
    ∧ (s.tenant t).pendingPolicy = none ∧ (s.tenant t).owned = 0 ∧ (s.tenant t).bound = 0 ∧ (s.tenant t).credit = 0
    ∧ (s.tenant t).epochEvictions = 0 ∧ (s.tenant t).watch = ⟨0, .none⟩ ∧ (s.tenant t).drain = none
    ∧ (s.tenant t).counters = ⟨0, 0, 0, 0, 0, 0, 0⟩
  streams : ∀ t x, s.stream t x = ⟨.unbound, none, 0, 0⟩
  lanes : ∀ l, s.lane l = ⟨.free, none, none, ⟨.empty, [], none, false, []⟩, ⟨.empty, [], none, false, []⟩, none, 0⟩
  lists : s.recency = [] ∧ s.laneWait = [] ∧ s.unitWait = [] ∧ s.parked = 0 ∧ s.ordersSent = []
  pools : ∀ g, s.pool g = []
  dies : ∀ d, s.die d = ⟨[], none, 0#8⟩
  units : ∀ u, s.unit u = ⟨.unknown, none, 0, 0, 0, none, false⟩
  scanner : s.scan = none ∧ s.working = [] ∧ s.nominations = []
  epochs : s.epoch = 0#32 ∧ s.epochTimer = none ∧ s.scanCount = 0 ∧ s.policyHold = false
  hold : s.lost = 0 ∧ s.holdLevel = hold
  media : s.mdlRst = true ∧ s.groupPtr = 0 ∧ ∀ g, rowOf 0 s.groupPos g = 0
  work : s.work = Work.empty

/-! ## Invariants -/

/-- The answers the part still owes or holds: replies, queued frames and flush records (R4). -/
def State.load (s : State) : Nat := s.replies.length + s.intake.length + s.flushes.length

/-- The sizes that the rules give (R4, R5, R6, R8, R10, R140). `room` is what the reply queue may come to hold: 177, and 176
while a frame is being received, whose reply is still to come. -/
structure State.Bounded (room : Nat) (s : State) : Prop where
  load : s.load ≤ room
  writes : s.intake.length ≤ Config.writeSlots
  controls : s.flushes.length ≤ Config.controlSlots
  credit : s.credit ≤ Config.creditMax
  placement : s.placement.length ≤ Config.placementEntries
  working : s.working.length ≤ Config.nominationEntries
  nominations : s.nominations.length ≤ Config.nominationEntries

/-- What the reply queue may come to hold (R4). -/
def State.room (s : State) : Nat := if s.receiving.isSome then 176 else 177

/-- Every table is in its form: rising numbers and no row equal to the default (log 28). -/
structure State.Canonical (s : State) : Prop where
  tenants : tableWf Tenant.reset s.tenants = true
  streams : tableWf StreamCtx.reset s.streams = true
  lanes : tableWf Lane.reset s.lanes = true
  units : tableWf UnitRec.reset s.units = true
  dies : tableWf Die.reset s.dies = true
  pools : tableWf [] s.pools = true
  notices : tableWf [] s.notices = true
  groupPos : tableWf 0 s.groupPos = true

/-- The attention list holds a source exactly when its pending set is not empty, and once (R11). -/
structure State.Attentive (s : State) : Prop where
  once : s.attention.Nodup
  exactly : ∀ src, src ∈ s.attention ↔ s.pendingSet src ≠ []

/-- The ranges of the settings (R14). -/
structure Settings.InRange (v : Settings) : Prop where
  epochLength : 10 ≤ v.epochLength ∧ v.epochLength ≤ 1000
  programTimeout : 1 ≤ v.programTimeout ∧ v.programTimeout ≤ 255
  drainDeadline : v.drainDeadline ≤ 60000
  parkedLimit : v.parkedLimit ≤ 512
  groupLimit : 1 ≤ v.groupLimit ∧ v.groupLimit ≤ 8
  lowWater : v.lowWater ≤ 4095
  scanRepetition : v.scanRepetition ≤ 255

/-- The ranges of a stored policy record (R23, R24). -/
structure Policy.InRange (p : Policy) : Prop where
  activeStreams : 1 ≤ p.activeStreams ∧ p.activeStreams ≤ 7
  streamMap : p.streamMap.length = 16 ∧ ∀ e ∈ p.streamMap, e ≤ 6
  allowance : p.allowance = 0 ∨ 16 ≤ p.allowance ∧ p.allowance ≤ 1048575
  laneQuota : 1 ≤ p.laneQuota ∧ p.laneQuota ≤ 8
  laneFloor : p.laneFloor ≤ 2 ∧ p.laneFloor ≤ p.laneQuota
  poolMask : p.poolMask ≠ 0#8
  watch : p.watchLow ≤ p.watchHigh ∧ p.watchHigh ≤ 65535 ∧ p.watchDepth ≤ 15

/-- The ranges of the tenant counters (R19). -/
structure TenantCounters.InRange (c : TenantCounters) : Prop where
  accepted : c.accepted ≤ Config.counterMax
  placed : c.placed ≤ Config.counterMax
  pad : c.pad ≤ Config.counterMax
  evictions : c.evictions ≤ Config.counterMax
  mapClamps : c.mapClamps ≤ Config.counterMax
  creditWaits : c.creditWaits ≤ Config.counterMax
  noSpace : c.noSpace ≤ Config.counterMax

/-- The ranges of a tenant context: its records (R23, R24), its credit balance (R49), its watch record (R161) and its
counters (R19). -/
structure Tenant.InRange (v : Tenant) : Prop where
  active : v.active.InRange
  pendingPolicy : ∀ p, v.pendingPolicy = some p → p.InRange
  credit : v.credit ≤ 2097150
  band : v.active.allowance ≠ 0 → v.credit ≤ 2 * v.active.allowance
  watch : v.watch.count < max v.active.watchDepth 1
  counters : v.counters.InRange

/-- The ranges of the device counters (R19). -/
structure DeviceCounters.InRange (c : DeviceCounters) : Prop where
  linkErrors : c.linkErrors ≤ Config.counterMax
  staleReports : c.staleReports ≤ Config.counterMax
  programFails : c.programFails ≤ Config.counterMax
  programTimeouts : c.programTimeouts ≤ Config.counterMax
  triggersIgnored : c.triggersIgnored ≤ Config.counterMax
  underruns : c.underruns ≤ Config.counterMax
  invalidatesIgnored : c.invalidatesIgnored ≤ Config.counterMax
  forcedReleases : c.forcedReleases ≤ Config.counterMax
  sectorsLost : c.sectorsLost ≤ Config.counterMax

/-- The ranges of the stream counters (R19). -/
structure StreamCtx.InRange (v : StreamCtx) : Prop where
  accepted : v.accepted ≤ Config.counterMax
  placed : v.placed ≤ Config.counterMax

/-- The counts of a unit: what is valid of it has been programmed (R124). -/
structure UnitRec.InRange (r : UnitRec) : Prop where
  valid : r.valid ≤ r.programmed

/-- The settings, every tenant context, the device counters, the stream counters and the unit counts are in their ranges. -/
structure State.InRange (s : State) : Prop where
  settings : s.settings.InRange
  tenants : ∀ t, (s.tenant t).InRange
  counters : s.counters.InRange
  streams : ∀ t x, (s.stream t x).InRange
  units : ∀ u, (s.unit u).InRange

/-- A unit that counts as owned by tenant t (R128): OPEN, PARKED, SEALED or RECLAIMING with t as its owner. -/
def UnitRec.ownedBy (r : UnitRec) (t : Nat) : Bool :=
  (r.isOpen || r.state = .sealed || r.state = .reclaiming) && (match r.owner with | some (o, _) => o = t | none => false)

/-- The lists and counts of the lane engine, the supply pools and the tenant table agree with the records they speak of. -/
structure State.Coherent (s : State) : Prop where
  /-- the recency list holds every bound lane, and no other, once (R61) -/
  recencyOnce : s.recency.Nodup
  recency : ∀ l, l ∈ s.recency ↔ (s.lane l).isBound = true
  /-- a lane that is not FREE names a stream (R57) -/
  named : ∀ l, (s.lane l).state ≠ .free → (s.lane l).stream ≠ none
  /-- a tenant's bound-lane count is the number of its lanes in UNIT_WAIT or ACTIVE (R60) -/
  bound : ∀ t, (s.tenant t).bound = s.lanes.countP (fun row => row.2.isBound && row.2.belongsTo t)
  /-- the lane wait queue holds a stream once at most, and every WAITING stream stands in it (R62) -/
  laneWaitOnce : s.laneWait.Nodup
  waiting : ∀ t x, (s.stream t x).binding = .waiting → ∃ e ∈ s.laneWait, streamKey e.1 e.2 = streamKey t x
  /-- the unit wait queue holds a lane once at most, and every lane in UNIT_WAIT stands in it (R91, R94) -/
  unitWaitOnce : s.unitWait.Nodup
  unitWait : ∀ l, (s.lane l).state = .unitWait → l ∈ s.unitWait
  /-- a FREE unit stands once in the pool of its own group, and no other unit stands in a pool (R86) -/
  pools : ∀ u g, (s.pool g).count u = if (s.unit u).state = .free ∧ g = poolOf u then 1 else 0
  /-- the parked-unit count is the number of PARKED units (R77) -/
  parked : s.parked = s.units.countP (fun row => row.2.state = .parked)
  /-- a tenant's owned-unit count is the number of units that count as owned by it (R128) -/
  owned : ∀ t, (s.tenant t).owned = s.units.countP (fun row => row.2.ownedBy t)
  /-- the floor sum stays within its limit (R25) -/
  floors : s.floorSum ≤ Config.floorLimit

/-- A tenant whose frames may be queued: ACTIVE, SUSPENDED, or DRAINING before its final close (R41, R165, R169). -/
def Tenant.isOpen (v : Tenant) : Bool := v.isServed || v.inFrames

/-- Tenants, streams, lanes, the lane wait queue and the groups agree with one another. -/
structure State.Linked (s : State) : Prop where
  /-- before START nothing has been ordered, bound or parked, and nothing waits (R13, R43) -/
  config : s.device = .config → s.dies = [] ∧ s.lanes = [] ∧ s.laneWait = [] ∧ s.unitWait = []
    ∧ ∀ t x, (s.stream t x).parkedUnit = none
  /-- frames are queued in RUNNING alone (R41, R178) -/
  intake : s.device ≠ .running → s.intake = []
  /-- a queued frame is for one of the eight streams of an open tenant (R39, R41) -/
  frames : ∀ f ∈ s.intake, f.stream < 8 ∧ (s.tenant f.tenant).isOpen = true
  /-- a stream in the lane wait queue is WAITING (R62) -/
  laneWait : ∀ t x, (t, x) ∈ s.laneWait → x < 8 ∧ (s.stream t x).binding = .waiting ∧ (s.tenant t).isOpen = true
  /-- the stream that a bound lane names is BOUND to that lane (R57, R64) -/
  boundLane : ∀ l t x, (s.lane l).isBound = true → (s.lane l).stream = some (t, x) →
    x < 8 ∧ (s.stream t x).binding = .bound l ∧ (s.tenant t).isOpen = true
  /-- a BOUND stream names a bound lane that names it (R38, R64) -/
  boundStream : ∀ t x l, x < 8 → (s.stream t x).binding = .bound l →
    (s.lane l).isBound = true ∧ (s.lane l).stream = some (t, x)
  /-- a tenant that is VACANT or REMOVED has no lane (R173) -/
  laneOwner : ∀ l t x, (s.lane l).stream = some (t, x) →
    x < 8 ∧ ((s.tenant t).isServed = true ∨ (s.tenant t).state = .draining)
  /-- outside HOLDING a tenant's bound lanes never exceed its lane quota in force (R60) -/
  quota : s.device ≠ .holding → ∀ t, (s.tenant t).bound ≤ (s.tenant t).active.laneQuota
  /-- a group has at most the group in-flight limit of orders in flight (R102) -/
  inFlight : ∀ g, s.inFlight g ≤ s.settings.groupLimit

/-- The form of a half (R58, R69, R70, R71). -/
structure Half.Formed (v : Half) : Prop where
  empty : v.state = .empty → v = ⟨.empty, [], none, false, []⟩
  filling : v.state = .filling → v.slots.length < 16 ∧ (∀ e ∈ v.slots, e.isReal = true) ∧ v.assigned = none
  full : v.state = .full ∨ v.state = .programming → v.slots.length = 16
  programming : v.state = .programming → v.assigned ≠ none
  sealMark : v.sealMark = true ↔ ∃ u, v.assigned = some (u, 255)

/-- How many halves of the lane are assigned a stripe of unit u. -/
def Lane.assignedTo (v : Lane) (u : Nat) : Nat :=
  [v.halfA, v.halfB].countP (fun h => match h.assigned with | some (c, _) => c = u | none => false)

/-- The stripe of unit u that an entry of a die queue stands for; a seal request stands behind every stripe (R78). -/
def State.stripeOf (s : State) (u : Nat) : DieEntry → Option Nat
  | .half l h => match (s.half l h).assigned with | some (c, n) => if c = u then some n else none | none => none
  | .seal c => if c = u then some 256 else none

/-- The stripes of unit u that die d has still to do, the one in flight first (R101, R102). -/
def State.stripesOn (s : State) (d u : Nat) : List Nat :=
  (match (s.die d).busy with
    | some o => if o.unit = u then [match o.kind with | .program _ _ n _ _ => n | .seal => 256] else []
    | none => [])
  ++ (s.die d).queue.filterMap (s.stripeOf u)

/-- A seal of unit u is queued or in flight on its die (R117). -/
def State.sealAsked (s : State) (u : Nat) : Prop :=
  .seal u ∈ (s.die (dieOf u)).queue ∨ s.sealInFlight u = true

/-- Halves, current and parked units, die queues, orders in flight and unit records agree with one another. -/
structure State.Placed (s : State) : Prop where
  halves : ∀ l h, (s.half l h).Formed
  /-- at most one half of a lane is FILLING, and none of a CLOSING lane (R69, R74) -/
  filling : ∀ l, ¬((s.lane l).halfA.state = .filling ∧ (s.lane l).halfB.state = .filling)
    ∧ ((s.lane l).state = .closing → (s.lane l).filling = none)
  /-- a FREE lane holds nothing (R57, R76) -/
  free : ∀ l, (s.lane l).state = .free → (s.lane l).stream = none ∧ (s.lane l).current = none ∧ (s.lane l).isDrained = true
  /-- a lane's current unit is OPEN, owned by the lane's stream, and its next stripe is the lane's (R57, R70, R125) -/
  current : ∀ l u n, (s.lane l).current = some (u, n) →
    n ≤ 255 ∧ (s.unit u).state = .opened ∧ (s.unit u).owner = (s.lane l).stream ∧ (s.unit u).nextStripe = n
      ∧ ((s.lane l).state = .active ∨ (s.lane l).state = .closing)
  /-- and no other lane's -/
  currentOnce : ∀ l k u n m, (s.lane l).current = some (u, n) → (s.lane k).current = some (u, m) → l = k
  /-- the unit of an assigned half is OPEN, belongs to its lane's stream, and is the lane's current unit until its last stripe
  has been assigned (R70, R71) -/
  assigned : ∀ l h u n, (s.half l h).assigned = some (u, n) →
    n < (s.unit u).nextStripe ∧ n ≤ 255 ∧ (s.unit u).state = .opened ∧ (s.unit u).owner = (s.lane l).stream
      ∧ (∀ k m, (s.lane k).current = some (u, m) → k = l)
      ∧ ((s.unit u).nextStripe = 256 ∨ ∃ m, (s.lane l).current = some (u, m))
  /-- two halves assigned stripes of one unit are halves of one lane, and have two stripes -/
  assignedOnce : ∀ l h k j u n m, (s.half l h).assigned = some (u, n) → (s.half k j).assigned = some (u, m) →
    l = k ∧ (n = m → h = j)
  /-- an order is in flight on its unit's die, and a program order carries a PROGRAMMING half (R100, R104) -/
  orders : ∀ d o, (s.die d).busy = some o →
    dieOf o.unit = d ∧ ∀ l h n mark slots, o.kind = .program l h n mark slots →
      (s.half l h).state = .programming ∧ (s.half l h).assigned = some (o.unit, n) ∧ (s.half l h).sealMark = mark
  /-- a PROGRAMMING half has its order in flight (R104) -/
  programming : ∀ l h u n, (s.half l h).state = .programming → (s.half l h).assigned = some (u, n) →
    ∃ o mark slots, (s.die (dieOf u)).busy = some o ∧ o.unit = u ∧ o.kind = .program l h n mark slots
  /-- the entries of a die queue are FULL halves assigned to units of that die, and seals of such units, each once (R101) -/
  queues : ∀ d, (s.die d).queue.Nodup
    ∧ (∀ l h, .half l h ∈ (s.die d).queue →
        (s.half l h).state = .full ∧ ∃ u n, (s.half l h).assigned = some (u, n) ∧ dieOf u = d)
    ∧ ∀ u, .seal u ∈ (s.die d).queue → dieOf u = d
  /-- an assigned FULL half is in its die's queue (R70) -/
  full : ∀ l h u n, (s.half l h).state = .full → (s.half l h).assigned = some (u, n) →
    .half l h ∈ (s.die (dieOf u)).queue
  /-- a unit's stripes are programmed in rising order, and its seal comes last (R78, R101) -/
  rising : ∀ d u, (s.stripesOn d u).Pairwise (· < ·)
  /-- a stream's parked unit is PARKED, owned by that stream, and not being sealed (R77) -/
  parked : ∀ t x u n, x < 8 → (s.stream t x).parkedUnit = some (u, n) →
    n ≤ 255 ∧ (s.unit u).state = .parked ∧ (s.unit u).owner = some (t, x) ∧ (s.unit u).nextStripe = n ∧ ¬s.sealAsked u
  /-- a unit to be sealed early is a displaced PARKED one, or the unit of a CLOSING lane with both halves EMPTY (R78) -/
  sealing : ∀ u, s.sealAsked u → (s.unit u).state = .parked
    ∨ (s.unit u).state = .opened
      ∧ ∃ l n, (s.lane l).state = .closing ∧ (s.lane l).isDrained = true ∧ (s.lane l).current = some (u, n)
  /-- nothing has been programmed in a FREE unit (R87) -/
  unused : ∀ u, (s.unit u).state = .free → (s.unit u).nextStripe = 0 ∧ (s.unit u).programmed = 0
  /-- the programmed count of a unit never exceeds its 4,096 sectors: with the stripes still to be programmed it stays within
  the stripes assigned, of which there are at most 256 (R124, R125) -/
  programmed : ∀ u, (s.unit u).programmed ≤ 4096 ∧ (s.unit u).nextStripe ≤ 256
    ∧ ∀ l, (s.unit u).programmed + 16 * (s.lane l).assignedTo u ≤ 16 * (s.unit u).nextStripe
  /-- the unit wait queue holds lanes in UNIT_WAIT, and CLOSING lanes with a FULL half without an assignment (R94) -/
  unitWait : ∀ l ∈ s.unitWait, (s.lane l).state = .unitWait
    ∨ (s.lane l).state = .closing ∧ (s.lane l).current = none ∧ (s.lane l).waitingHalves ≠ []
  /-- a lane with such a half stands in the queue, and in HOLDING there is none (R94, R180) -/
  waiting : ∀ l, (s.lane l).waitingHalves ≠ [] → l ∈ s.unitWait ∧ s.device ≠ .holding
  /-- in HOLDING nothing is staged: the FILLING halves were padded at its entry (R178) -/
  padded : s.device = .holding → ∀ l h, (s.half l h).state = .filling → (s.half l h).slots = []
  /-- outside HOLDING a bound lane without a current unit is in UNIT_WAIT (R63) -/
  noUnit : s.device ≠ .holding → ∀ l, (s.lane l).isBound = true → (s.lane l).current = none →
    (s.lane l).state = .unitWait

/-! ## What internal events leave as it is -/

/-- The same frame, whatever its progress (R42). -/
structure SameFrame (f g : Frame) : Prop where
  tag : g.tag = f.tag
  tenant : g.tenant = f.tenant
  stream : g.stream = f.stream
  relocation : g.relocation = f.relocation
  writeTag : g.writeTag = f.writeTag
  sectors : g.sectors = f.sectors

/-- The pending entry of a kind, if that kind is pending for the source (R11). -/
def State.pendingOf (s : State) (src : Nat) (kind : NoticeKind) : Option NoticeEntry :=
  (s.pendingSet src).find? (fun e => e.kind = kind)

/-- Kinds of notice that an internal event may post. -/
def NoticeKind.isInternal : NoticeKind → Bool
  | .noSpace | .supplyLow | .drained | .holdDone => true
  | _ => false

/-- A tenant that is leaving or has left (R21). -/
def TenantState.isGone : TenantState → Bool
  | .draining | .removed | .vacant => true
  | _ => false

/-- A unit state that no internal event moves a unit out of (R123): any but FREE, OPEN and PARKED. -/
def UnitState.isSettled : UnitState → Bool
  | .free | .opened | .parked => false
  | _ => true

/-- What the internal events of one command, and the loss of halves in a hold, leave as it was, from s to t: the settings
and the link's own registers, the epoch, each tenant's active record and its accepted, placed and clamped counts, each
stream's counts, each unit's counts, seal epoch and failed mark, a settled unit's state and owner, each lane's fail run,
the nomination list, and notices of other kinds. No unit becomes settled, an OPEN or PARKED one stays one of the two, no reply is
lost, and a frame that leaves a queue is answered. The balance of a tenant with no frame queued stays, and outside HOLDING so
does a scan, unless low water may trigger one. -/
structure RecordsKept (s t : State) : Prop where
  settings : t.settings = s.settings
  tx : t.tx = s.tx
  receiving : t.receiving = s.receiving
  resyncArmed : t.resyncArmed = s.resyncArmed
  resetWait : t.resetWait = s.resetWait
  credit : t.credit = s.credit
  preference : t.preference = s.preference
  epoch : t.epoch = s.epoch
  scanCount : t.scanCount = s.scanCount
  policyHold : t.policyHold = s.policyHold
  holdLevel : t.holdLevel = s.holdLevel
  pending : t.pending = s.pending
  device : s.device ≠ .holding → t.device = s.device ∧ t.epochTimer = s.epochTimer
  replies : s.replies <+: t.replies
  frames : ∀ f ∈ s.intake, (∃ g ∈ t.intake, SameFrame f g) ∨ ∃ r ∈ t.replies, r.tag = f.tag
  came : ∀ g ∈ t.intake, ∃ f ∈ s.intake, SameFrame f g
  fewer : t.intake.length ≤ s.intake.length
  linkErrors : t.counters.linkErrors = s.counters.linkErrors
  staleReports : t.counters.staleReports = s.counters.staleReports
  programFails : t.counters.programFails = s.counters.programFails
  programTimeouts : t.counters.programTimeouts = s.counters.programTimeouts
  underruns : t.counters.underruns = s.counters.underruns
  invalidatesIgnored : t.counters.invalidatesIgnored = s.counters.invalidatesIgnored
  forcedReleases : t.counters.forcedReleases = s.counters.forcedReleases
  active : ∀ n, (t.tenant n).active = (s.tenant n).active
  balance : ∀ n, s.queueOf n = [] → (t.tenant n).credit = (s.tenant n).credit
  scan : s.device ≠ .holding → s.settings.trigger ≠ .supplyLow → t.scan = s.scan ∧ t.working = s.working
  nominations : t.nominations = s.nominations
  accepted : ∀ n, (t.tenant n).counters.accepted = (s.tenant n).counters.accepted
  placed : ∀ n, (t.tenant n).counters.placed = (s.tenant n).counters.placed
  mapClamps : ∀ n, (t.tenant n).counters.mapClamps = (s.tenant n).counters.mapClamps
  undrained : ∀ n, (s.tenant n).state ≠ .draining → (s.tenant n).state ≠ .removed →
    (t.tenant n).state = (s.tenant n).state ∧ (t.tenant n).pendingPolicy = (s.tenant n).pendingPolicy
      ∧ (t.tenant n).watch = (s.tenant n).watch
  gone : ∀ n, (s.tenant n).state.isGone = true → (t.tenant n).state.isGone = true
  withdrawn : ∀ n, (s.tenant n).pendingPolicy = none → (t.tenant n).pendingPolicy = none
  streamAccepted : ∀ n x, (t.stream n x).accepted = (s.stream n x).accepted
  streamPlaced : ∀ n x, (t.stream n x).placed = (s.stream n x).placed
  valid : ∀ u, (t.unit u).valid = (s.unit u).valid
  programmed : ∀ u, (t.unit u).programmed = (s.unit u).programmed
  sealEpoch : ∀ u, (t.unit u).sealEpoch = (s.unit u).sealEpoch
  failed : ∀ u, (t.unit u).failed = (s.unit u).failed
  settled : ∀ u, (s.unit u).state.isSettled = true →
    (t.unit u).state = (s.unit u).state ∧ (t.unit u).owner = (s.unit u).owner
  unsettled : ∀ u, (s.unit u).state.isSettled = false → (t.unit u).state.isSettled = false
  stillOpen : ∀ u, (s.unit u).isOpen = true → (t.unit u).isOpen = true
  failRun : ∀ l, (t.lane l).failRun = (s.lane l).failRun
  notices : ∀ src kind, kind.isInternal = false → t.pendingOf src kind = s.pendingOf src kind

/-- What the internal events at the end of a command leave as it was (log 8): besides the records above, the flush records,
what a hold has lost, and the entries of the placement queue with their places. -/
structure WorkKeeps (s t : State) : Prop extends RecordsKept s t where
  flushes : t.flushes = s.flushes
  lost : t.lost = s.lost
  sectorsLost : t.counters.sectorsLost = s.counters.sectorsLost
  placement : s.placement <+: t.placement

end Machine

end Sys2Proof
end

