-- ==== Sys2Proof/Certificates/Slice0/Obligations.lean ====
section
/-! DEFINITION. The statements for the provers. In each, `s` is any state, `s.noteRx` is s with the frame that was being
received at its end (it differs from s in `receiving` alone, R1), and a conclusion `exec c s = .next t` says that the command
completes and what it leaves: what t does not change is unchanged. Where the internal events of a command follow (log 8), t is
told by what it shows and by WorkKeeps or RecordsKept of Safety.lean, which name what those events leave as it was. -/

open Sys2Proof Sys2Proof.Machine

/-! ## The machine -/

/-- Step takes the command at the front of the queue; with an empty queue the part idles (log 1). -/
def Obligations.StepRunsFrontCommand : Prop :=
  (∀ (c : Instr) (rest : List Instr) (s : State), s.pending = c :: rest → step s = exec c { s with pending := rest })
    ∧ ∀ s : State, s.pending = [] → step s = .next s

/-- No command and no step stops the part. That a step answers with an empty queue (the part idles, log 1), and that an event
command which cannot occur completes and changes nothing (log 2), are the model's own choices. -/
def Obligations.NothingStopsThePart : Prop := (∀ c s, completes c s) ∧ ∀ s, runsOn s

/-! ## Invariants -/

/-- The sizes of R4, R5, R6, R8, R10 and R140 are kept by every step. -/
def Obligations.SizesKept : Prop :=
  ∀ s t : State, s.Bounded s.room → step s = .next t → t.Bounded t.room

/-- Every table keeps its one form under every step (log 28). -/
def Obligations.TablesKept : Prop := ∀ s t : State, s.Canonical → step s = .next t → t.Canonical

/-- The attention list stays true to the pending sets under every step (R11). -/
def Obligations.AttentionKept : Prop := ∀ s t : State, s.Attentive → step s = .next t → t.Attentive

/-- Settings, policy records, balances, watch records and the device, tenant and stream counters stay in their ranges under
every step (R14, R19, R23, R24, R49, R161), and no unit has more valid sectors than programmed ones (R124). -/
def Obligations.RangesKept : Prop :=
  ∀ s t : State, s.InRange → step s = .next t → t.InRange

/-- What the model's reset state holds; the HOLD input is deasserted (the model's choice, log 5). The seven invariants hold of
it. -/
def Obligations.ResetStateHolds : Prop :=
  (State.reset.AfterReset false ∧ State.reset.pending = [])
  ∧ (State.reset.Bounded State.reset.room ∧ State.reset.Canonical ∧ State.reset.Attentive ∧ State.reset.InRange
    ∧ State.reset.Coherent ∧ State.reset.Linked ∧ State.reset.Placed)

/-! ## Resets -/

/-- RESET_N resets every block at once; a DEVICE_RESET queues its reply, the receiver takes nothing more, and the reset takes
effect once that reply has been sent (R15). The commands that wait stay (log 26), and without a DEVICE_RESET there is no such
event (log 2). -/
def Obligations.ResetsRestoreEveryBlock : Prop :=
  (∀ hold s, ∃ t, exec (.resetN hold) s = .next t ∧ t.AfterReset hold ∧ t.pending = s.pending)
  ∧ (∀ tag (s : State), s.takesFrames →
    exec (.deviceReset tag) s =
        .next { s.noteRx.reply tag .ok with resetWait := some (s.replies.length + 1) }
      ∧ State.rxBlocked { s.noteRx.reply tag .ok with resetWait := some (s.replies.length + 1) } = true)
  ∧ (∀ hold (s : State),
    (s.resetWait = some 0 →
      ∃ t, exec (.deviceResetTakesEffect hold) s = .next t ∧ t.AfterReset hold ∧ t.pending = s.pending)
    ∧ (s.resetWait ≠ some 0 → exec (.deviceResetTakesEffect hold) s = .next s))

/-! ## Taking frames -/

/-- The receiver is blocked once a DEVICE_RESET has been taken (R15), and otherwise exactly when 96 replies are queued and no
frame is being received; a command that stands for a whole frame then has no effect, and no symbol is taken. These two
readings of R4 are the model's choice (log 4). Otherwise a symbol adds to the frame being received or runs the command that
ends it (R1; the receiver beside step is the model's, log 31). A frame whose length is not the one its kind implies is
discarded (R2), and so is any frame but a LINK_RESYNC that follows a resync delimiter (R3). -/
def Obligations.FramesTurnedAway : Prop :=
  (∀ s : State, s.rxBlocked = true ↔ s.resetWait ≠ none ∨ (96 ≤ s.replies.length ∧ s.receiving = none))
  ∧ (∀ c (s : State), c.isReceived = true → s.rxBlocked = true → exec c s = .next s)
  ∧ (∀ symbol (s : State),
    (s.rxBlocked = true → s.takeSymbol symbol = .next s)
    ∧ (s.rxBlocked = false →
      (∀ read, nextSymbol s.receiving symbol = .reading read → s.takeSymbol symbol = .next { s with receiving := read })
      ∧ ∀ c, nextSymbol s.receiving symbol = .ends c → s.takeSymbol symbol = exec c s))
  ∧ (∀ c (s : State), c.isReceived = true → s.rxBlocked = false →
    (s.resyncArmed = false → c.wellFormed = false → exec c s = .next s.noteRx.discardFrame)
    ∧ (s.resyncArmed = true → (∀ tag, c ≠ .linkResync tag) → c ≠ .resyncDelimiter → c ≠ .frameDiscard .newDelimiter →
        exec c s = .next ({ s.noteRx with resyncArmed := false } : State).discardFrame))

/-- A control request is answered NO_SLOT, and nothing else changes, while all 16 control slots are held (R6). That the reply
carries the status alone is the model's choice (log 34). -/
def Obligations.ControlSlotsHeld : Prop :=
  ∀ c tag (s : State), c.controlTag = some tag → c.wellFormed = true → s.takesFrames → 16 ≤ s.flushes.length →
    exec c s = .next (s.noteRx.reply tag .noSlot)

/-- The frames that claim no slot. FRAME_DISCARD: the link-error counter rises and saturates, LINK_ERROR is posted with its
new value, no reply is formed, and after a start delimiter that ended the frame a new one is being received (R1).
UNASSIGNED_FRAME is answered BAD_REQUEST with its own link tag, whatever the slots (R2). RESYNC_DELIMITER awaits the next
frame and counts nothing; LINK_RESYNC, with or without it, makes the credit 0 and is answered OK (R3). -/
def Obligations.FramesWithoutASlot : Prop :=
  (∀ why (s : State), s.rxBlocked = false →
    ∃ t : State, exec (.frameDiscard why) s = .next t
      ∧ t.counters = { s.counters with linkErrors := min (s.counters.linkErrors + 1) 4294967295 }
      ∧ t = State.post
          { s with
            resyncArmed := false, counters := t.counters
            receiving := if why = .newDelimiter then some [] else none } 1024 .linkError
          (BitVec.ofNat 32 t.counters.linkErrors)
      ∧ t.replies = s.replies)
  ∧ (∀ tag (s : State), s.takesFrames → exec (.unassignedFrame tag) s = .next (s.noteRx.reply tag .badRequest))
  ∧ (∀ tag (s : State), s.rxBlocked = false →
    exec .resyncDelimiter s = .next { s.noteRx with resyncArmed := true }
    ∧ exec (.linkResync tag) s =
        .next { s.noteRx with
          resyncArmed := false, credit := 0, replies := s.replies ++ [⟨tag, .ok, .bare⟩] })

/-- Posting a notice (R11): a kind not pending becomes pending once with the detail, a pending one is repeated up to 255
with the new detail, other pending kinds stay, and the source joins the attention list where its set was empty. -/
def Obligations.NoticePosting : Prop :=
  ∀ (s : State) (src : Nat) (kind : NoticeKind) (d : BitVec 32),
    (s.pendingOf src kind = none → (s.post src kind d).pendingOf src kind = some ⟨kind, 1, d⟩)
    ∧ (∀ e, s.pendingOf src kind = some e →
        (s.post src kind d).pendingOf src kind = some ⟨kind, min (e.repeats + 1) 255, d⟩)
    ∧ (∀ n k, n ≠ src ∨ k ≠ kind → (s.post src kind d).pendingOf n k = s.pendingOf n k)
    ∧ (s.post src kind d).attention =
        (if s.pendingSet src = [] then s.attention ++ [src] else s.attention)
    ∧ s.post src kind d =
        { s with notices := (s.post src kind d).notices, attention := (s.post src kind d).attention }

/-! ## The transmitter -/

/-- SEND_REPLY: the oldest reply leaves the queue as its sending begins (R4, R7), except after the reply of a DEVICE_RESET
(R15). -/
def Obligations.OldestReplyIsSent : Prop :=
  ∀ s : State,
    (∀ r rest, s.replies = r :: rest → s.resetWait ≠ some 0 →
      exec .sendReply s =
        .next { s with
          replies := rest, tx := some (.reply r)
          resetWait := s.resetWait.map (fun n => n - 1) })
    ∧ (s.replies = [] ∨ s.resetWait = some 0 → exec .sendReply s = .next s)

/-- SEND_PLACEMENT_REPORT where the arbiter chooses the READY head (R9): the report leaves the queue, the credit falls by one
and the preference is NOTICE if a notice waited as well. The room goes to one half (R107): the first die, over the groups from
the group pointer on and over each group's circle from its own pointer on, whose head is an eligible half without a
reservation. That head is dispatched, which reserves the tail of the placement queue, and the group pointer moves on. -/
def Obligations.PlacementReportIsSent : Prop :=
  (∀ (s q : State) t x extents rest, s.placement = .ready t x extents :: rest → s.replies = [] → 0 < s.credit →
    s.resetWait = none → (s.attention = [] ∨ s.preference = .placement) →
    q = { s with
      credit := s.credit - 1, preference := if s.attention = [] then .placement else .notice, placement := rest
      tx := some (.placement t x extents) } →
    exec .sendPlacementReport s = .next q.grantRoom)
  ∧ (∀ (s : State) (dies : List Nat),
    dies = (List.range 8).flatMap (fun i =>
      (List.range 8).map (fun j => 8 * ((s.groupPtr + i) % 8) + (rowOf 0 s.groupPos ((s.groupPtr + i) % 8) + j) % 8)) →
    (dies.find? s.wantsRoom = none → s.grantRoom = s)
    ∧ ∀ d, dies.find? s.wantsRoom = some d →
      s.grantRoom = { s.dispatch d with groupPtr := (d / 8 + 1) % 8 }
      ∧ ∃ l h, (s.grantRoom).placement = s.placement ++ [.reserved l h] ∧ (s.die d).queue.head? = some (.half l h))
  ∧ (∀ (s : State) (d : Nat),
    s.wantsRoom d = true ↔
      s.eligible d = true ∧ ∃ l h rest, (s.die d).queue = .half l h :: rest ∧ s.hasReservation l h = false)

/-- SEND_NOTICE where the arbiter chooses the notice of the first source (R9): the frame carries its whole pending set, which
is emptied, and the source leaves the attention list (R12). The arbiter chooses nothing while a reply waits, while the credit
is 0 and while a DEVICE_RESET is under way (R7, R9, R15). -/
def Obligations.NoticeSent : Prop :=
  (∀ (s : State) src rest, s.attention = src :: rest → s.replies = [] → 0 < s.credit → s.resetWait = none →
    (s.placementWaits = false ∨ s.preference = .notice) →
    exec .sendNotice s =
        .next { s with
          credit := s.credit - 1, preference := .placement, attention := rest
          notices := putRow [] s.notices src [], tx := some (.notice src (s.pendingSet src)) }
      ∧ rowOf [] (putRow [] s.notices src []) src = []
      ∧ ∀ n, n ≠ src → rowOf [] (putRow [] s.notices src []) n = s.pendingSet n)
  ∧ (∀ s : State, (s.replies ≠ [] ∨ s.credit = 0 ∨ s.resetWait ≠ none) →
    exec .sendPlacementReport s = .next s ∧ exec .sendNotice s = .next s)

/-! ## Settings, credit, hold and queries -/

/-- CONFIGURE (R14). That a refusal carries its status alone is the model's choice (log 34). -/
def Obligations.ConfigureReplacesSettings : Prop :=
  State.reset.settings = ⟨100, 20, 5000, 256, 3, 16, false, false, false, .none, 0⟩ ∧
  ∀ tag (raw : RawSettings) (s : State), s.takesControl →
    (s.device ≠ .config → exec (.configure tag raw) s = .next (s.noteRx.reply tag .wrongState))
    ∧ (s.device = .config → 3 < raw.trigger.toNat →
        exec (.configure tag raw) s = .next (s.noteRx.reply tag .badRequest))
    ∧ (s.device = .config → raw.trigger.toNat ≤ 3 →
        ∃ v : Settings,
          exec (.configure tag raw) s = .next (({ s.noteRx with settings := v } : State).reply tag .ok (.settings v))
          ∧ v.epochLength = max 10 (min raw.epochLength.toNat 1000)
          ∧ v.programTimeout = max 1 (min raw.programTimeout.toNat 255)
          ∧ v.drainDeadline = min raw.drainDeadline.toNat 60000
          ∧ v.parkedLimit = min raw.parkedLimit.toNat 512
          ∧ v.groupLimit = max 1 (min raw.groupLimit.toNat 8)
          ∧ v.lowWater = min raw.lowWater.toNat 4095
          ∧ v.epochNotice = decide (raw.epochNotice ≠ 0#8)
          ∧ v.autoResume = decide (raw.autoResume ≠ 0#8)
          ∧ v.holdupArmed = decide (raw.holdupArmed ≠ 0#8)
          ∧ v.trigger =
              (if raw.trigger.toNat = 0 then .none else if raw.trigger.toNat = 1 then .epoch
                else if raw.trigger.toNat = 2 then .supplyLow else .continuous)
          ∧ v.scanRepetition = raw.scanRepetition.toNat)

/-- START (R13, R153, R154, R159; with the HOLD level asserted R177, and any scan abandoned, R148): taken in CONFIG alone. Under
CONTINUOUS it starts a scan of scope ALL if none is RUNNING (R144). -/
def Obligations.StartMakesThePartRun : Prop :=
  ∀ tag (s : State), s.takesControl →
    (s.device ≠ .config → exec (.start tag) s = .next (s.noteRx.reply tag .wrongState))
    ∧ (s.device = .config → s.holdLevel = false →
        ∃ t : State, exec (.start tag) s = .next t ∧ t.device = .running ∧ t.epoch = 0#32
          ∧ t.epochTimer = some s.settings.epochLength ∧ t.scanCount = s.settings.scanRepetition
          ∧ (s.settings.trigger = .continuous → s.scan = none → t.scan = some ⟨.all, 0⟩ ∧ t.working = [])
          ∧ WorkKeeps
              { s.noteRx with
                device := .running, epoch := 0#32, epochTimer := some s.settings.epochLength
                scan := if s.settings.trigger = .continuous ∧ s.scan = none then some ⟨.all, 0⟩ else s.scan
                working := if s.settings.trigger = .continuous ∧ s.scan = none then [] else s.working
                scanCount := s.settings.scanRepetition, replies := s.replies ++ [⟨tag, .ok, .bare⟩] } t)
    ∧ (s.device = .config → s.holdLevel = true →
        ∃ t : State, exec (.start tag) s = .next t ∧ (t.device = .holding ∨ t.device = .held) ∧ t.epoch = 0#32
          ∧ s.replies ++ [⟨tag, .ok, .bare⟩] <+: t.replies ∧ t.intake = [] ∧ t.scan = none
          ∧ t.nominations = s.nominations)

/-- GRANT_CREDITS (R8), taken in every device operating state, and POLICY_HOLD (R158). That a refused POLICY_HOLD carries its
status alone is the model's choice (log 34). -/
def Obligations.CreditAndPolicyHold : Prop :=
  (∀ tag (grant : BitVec 16) (s : State), s.takesControl →
    (1 ≤ grant.toNat → grant.toNat ≤ 4096 →
      exec (.grantCredits tag grant) s =
        .next (({ s.noteRx with credit := min (s.credit + grant.toNat) 65535 } : State).reply tag .ok
          (.credit (min (s.credit + grant.toNat) 65535))))
    ∧ (grant.toNat = 0 ∨ 4096 < grant.toNat →
        exec (.grantCredits tag grant) s = .next (s.noteRx.reply tag .badRequest (.credit s.credit))))
  ∧ State.reset.policyHold = false
  ∧ ∀ tag (code : BitVec 8) (s : State), s.takesControl →
    (code.toNat = 0 →
      exec (.policyHold tag code) s = .next (({ s.noteRx with policyHold := false } : State).reply tag .ok (.hold false)))
    ∧ (code.toNat = 1 →
      exec (.policyHold tag code) s = .next (({ s.noteRx with policyHold := true } : State).reply tag .ok (.hold true)))
    ∧ (1 < code.toNat → exec (.policyHold tag code) s = .next (s.noteRx.reply tag .badRequest))

/-- QUERY (R17): a target in range is answered with its snapshot, taken before the clear flag sets its counters to 0; any
other is refused and clears nothing. The snapshot records hold the fields of R18. The QUERY's own control slot counts as held
(log 32), the LANE record shows the first-full mark as well (log 42), and a refusal carries its status alone (log 34): these
three are the model's choices. -/
def Obligations.QueryAnswersWithASnapshot : Prop :=
  (∀ tag (target : QueryTarget) (clear : BitVec 8) (s : State), s.takesControl →
    ((∃ a, target = .unassigned a) ∨ (∃ t, target = .tenant t ∧ 1023 < t.toNat)
        ∨ (∃ t x, target = .stream t x ∧ (1023 < t.toNat ∨ 7 < x.toNat))
        ∨ (∃ l, target = .lane l ∧ 127 < l.toNat) ∨ (∃ u, target = .unit u ∧ 32767 < u.toNat) →
      exec (.query tag target clear) s = .next (s.noteRx.reply tag .badRequest))
    ∧ ∀ r,
      (target = .device ∧ r = .device s.deviceSnapshot)
        ∨ (∃ t, target = .tenant t ∧ t.toNat ≤ 1023 ∧ r = .tenant (s.tenantSnapshot t.toNat))
        ∨ (∃ t x, target = .stream t x ∧ t.toNat ≤ 1023 ∧ x.toNat ≤ 7 ∧ r = .stream (s.stream t.toNat x.toNat))
        ∨ (∃ l, target = .lane l ∧ l.toNat ≤ 127 ∧ r = .lane (s.laneSnapshot l.toNat))
        ∨ (∃ u, target = .unit u ∧ u.toNat ≤ 32767 ∧ r = .unit (s.unitSnapshot u.toNat))
        ∨ (target = .pools ∧ r = .pools s.poolsSnapshot)
        ∨ (target = .nominations ∧ r = .nominations (s.nominations.map Nomination.entry)) →
      (clear = 0#8 → exec (.query tag target clear) s = .next (s.noteRx.reply tag .ok (.snapshot r)))
      ∧ (clear ≠ 0#8 →
        exec (.query tag target clear) s =
          .next
            ((match target with
              | .device => { s.noteRx with counters := ⟨0, 0, 0, 0, 0, 0, 0, 0, 0⟩ }
              | .tenant t => s.noteRx.modTenant t.toNat (fun v => { v with counters := ⟨0, 0, 0, 0, 0, 0, 0⟩ })
              | .stream t x => s.noteRx.modStream t.toNat x.toNat (fun v => { v with accepted := 0, placed := 0 })
              | _ => s.noteRx).reply tag .ok (.snapshot r))))
  ∧ (∀ (s : State) (ready : Nat),
    ready = s.placement.countP (fun e => match e with | .ready _ _ _ => true | .reserved _ _ => false) →
    s.deviceSnapshot =
      ⟨s.device, s.epoch, s.settings, s.policyHold, s.scan.isSome, s.credit, s.attention.length, ready,
        s.placement.length - ready, 64 - s.intake.length, 16 - (s.flushes.length + 1), s.parked, s.counters⟩)
  ∧ (∀ (s : State) (t : Nat),
    s.tenantSnapshot t =
      ⟨(s.tenant t).state, (s.tenant t).active, (s.tenant t).pendingPolicy, (s.tenant t).credit, (s.tenant t).owned,
        (s.tenant t).bound, (s.intake.filter (fun f => f.tenant = t)).length,
        (s.flushes.filter (fun f => f.tenant = t)).length, (s.tenant t).watch, (s.tenant t).counters⟩)
  ∧ (∀ (s : State) (l : Nat) (half : Half → HalfSnapshot),
    (∀ v, half v =
      ⟨v.state, v.slots.countP Slot.isReal, v.slots.length - v.slots.countP Slot.isReal, v.assigned, v.sealMark,
        v.refs.length⟩) →
    s.laneSnapshot l =
      ⟨(s.lane l).state, (s.lane l).stream, (s.lane l).current, (s.lane l).failRun,
        if l ∈ s.recency then some (s.recency.idxOf l + 1) else none, half (s.lane l).halfA, half (s.lane l).halfB,
        (s.lane l).firstFull⟩)
  ∧ (∀ (s : State) (u : Nat),
    s.unitSnapshot u =
      ⟨(s.unit u).state, (s.unit u).owner, (s.unit u).valid, (s.unit u).programmed, (s.unit u).nextStripe,
        (s.unit u).sealEpoch,
        if (s.unit u).state = .sealed then
          some (ageOf s.epoch (s.unit u), scoreOf (s.unit u).valid (ageOf s.epoch (s.unit u)))
        else none,
        (s.unit u).failed⟩)
  ∧ (∀ s : State,
    s.poolsSnapshot.pools = (List.range 8).map (fun g => ((s.pool g).length, (s.pool g).head?))
      ∧ s.poolsSnapshot.unitWait = s.unitWait.length
      ∧ ∀ g, g < 8 → s.poolsSnapshot.lowMask.getLsbD g = decide ((s.pool g).length < s.settings.lowWater))

/-! ## Tenants -/

/-- The first two checks of a tenant request (R26), and the first three of a REMOVE_TENANT (R166): HOLDING, then the tenant
id, the mode code and the drive tenant. That a refused REMOVE_TENANT carries its status alone is the model's choice (log
34). -/
def Obligations.TenantRequestChecks : Prop :=
  ∀ tag (tenant : BitVec 16) (raw : RawPolicy) (code : BitVec 8) (s : State), s.takesControl → raw.fits = true →
    ∀ c : Instr, c = .admitTenant tag tenant raw ∨ c = .setPolicy tag tenant code raw ∨ c = .cancelPending tag tenant
        ∨ c = .suspendTenant tag tenant ∨ c = .resumeTenant tag tenant ∨ c = .removeTenant tag tenant code →
      (s.device = .holding → exec c s = .next (s.noteRx.reply tag .wrongState))
      ∧ (s.device ≠ .holding → 1023 < tenant.toNat → exec c s = .next (s.noteRx.reply tag .badRequest))
      ∧ (s.device ≠ .holding → c = .removeTenant tag tenant code → (1 < code.toNat ∨ tenant.toNat = 0) →
          exec c s = .next (s.noteRx.reply tag .badRequest))

/-- A record is refused on the grounds of R23, and otherwise clamped as R24 gives. -/
def Obligations.PolicyRecordIsCheckedAndClamped : Prop :=
  ∀ raw : RawPolicy,
    (policyOf raw = none ↔
      raw.activeStreams.toNat = 0 ∨ 7 < raw.activeStreams.toNat ∨ (∃ e ∈ raw.streamMap, 6 < e.toNat)
        ∨ raw.laneQuota.toNat = 0 ∨ raw.poolMask = 0#8 ∨ 2 < raw.noUnit.toNat ∨ 1 < raw.flushMode.toNat
        ∨ 3 < raw.watchSource.toNat ∨ raw.watchHigh.toNat < raw.watchLow.toNat)
    ∧ ∀ p, policyOf raw = some p →
        p.activeStreams = raw.activeStreams.toNat ∧ p.streamMap = raw.streamMap.map BitVec.toNat
        ∧ p.allowance = (if raw.allowance.toNat = 0 then 0 else max 16 (min raw.allowance.toNat 1048575))
        ∧ p.laneQuota = min raw.laneQuota.toNat 8
        ∧ p.laneFloor = min (min raw.laneFloor.toNat 2) (min raw.laneQuota.toNat 8)
        ∧ p.poolMask = raw.poolMask ∧ p.watchLow = raw.watchLow.toNat ∧ p.watchHigh = raw.watchHigh.toNat
        ∧ p.watchDepth = min raw.watchDepth.toNat 15
        ∧ p.noUnit = (if raw.noUnit.toNat = 0 then .spill else if raw.noUnit.toNat = 1 then .wait else .refuse)
        ∧ p.flushMode = (if raw.flushMode.toNat = 0 then .pad else .holdup)
        ∧ p.watchSource =
            (if raw.watchSource.toNat = 0 then .none else if raw.watchSource.toNat = 1 then .victimValid
              else if raw.watchSource.toNat = 2 then .creditLeft else .evictions)

/-- ADMIT_TENANT (R26, R27, R25): a VACANT tenant becomes ACTIVE under the clamped record; the other states, a bad record and
a floor sum above 96 are refused. The balance of an unlimited tenant is 0 (the model's choice, log 33). -/
def Obligations.AdmitMakesAVacantTenantActive : Prop :=
  ∀ tag (tenant : BitVec 16) (raw : RawPolicy) (s : State), s.takesControl → raw.fits = true → s.device ≠ .holding →
    tenant.toNat ≤ 1023 →
    ((s.tenant tenant.toNat).state = .removed →
      exec (.admitTenant tag tenant raw) s = .next (s.noteRx.reply tag .unitsRemain))
    ∧ ((s.tenant tenant.toNat).state ≠ .removed → (s.tenant tenant.toNat).state ≠ .vacant →
      exec (.admitTenant tag tenant raw) s = .next (s.noteRx.reply tag .tenantState))
    ∧ ((s.tenant tenant.toNat).state = .vacant → policyOf raw = none →
      exec (.admitTenant tag tenant raw) s = .next (s.noteRx.reply tag .badRequest))
    ∧ ∀ p, (s.tenant tenant.toNat).state = .vacant → policyOf raw = some p →
      (96 < s.floorSum + p.laneFloor →
        exec (.admitTenant tag tenant raw) s = .next (s.noteRx.reply tag .noCapacity))
      ∧ (s.floorSum + p.laneFloor ≤ 96 →
        ∃ t : State, exec (.admitTenant tag tenant raw) s = .next t
          ∧ t.tenant tenant.toNat =
              { s.tenant tenant.toNat with
                state := .active, active := p, pendingPolicy := none, credit := p.allowance, epochEvictions := 0
                watch := ⟨0, .none⟩, counters := ⟨0, 0, 0, 0, 0, 0, 0⟩ }
          ∧ (∀ n, n ≠ tenant.toNat → t.tenant n = s.tenant n)
          ∧ (∀ x, x < 8 → t.stream tenant.toNat x = ⟨.unbound, none, 0, 0⟩)
          ∧ (∀ n x, n ≠ tenant.toNat → x < 8 → t.stream n x = s.stream n x)
          ∧ t = { s.noteRx with
              tenants := t.tenants, streams := t.streams, replies := s.replies ++ [⟨tag, .ok, .policy p⟩] })

/-- SET_POLICY with when NOW (R28, R29, R25): the clamped record is the active record, the pending record stays, the balance
and the watch record are handed over, and the reply carries the record. What the head of the queue is charged as it is served
again (R44) comes after; with no frame queued the balance is as handed over. -/
def Obligations.SetPolicyNow : Prop :=
  ∀ tag (tenant : BitVec 16) (raw : RawPolicy) (p : Policy) (s : State), s.takesControl → raw.fits = true →
    s.device ≠ .holding → tenant.toNat ≤ 1023 → (s.tenant tenant.toNat).isServed = true → policyOf raw = some p →
    (96 < s.floorSum - (s.tenant tenant.toNat).reservation
        + max p.laneFloor (match (s.tenant tenant.toNat).pendingPolicy with | some q => q.laneFloor | none => 0) →
      exec (.setPolicy tag tenant 0#8 raw) s = .next (s.noteRx.reply tag .noCapacity))
    ∧ (s.floorSum - (s.tenant tenant.toNat).reservation
        + max p.laneFloor (match (s.tenant tenant.toNat).pendingPolicy with | some q => q.laneFloor | none => 0) ≤ 96 →
      ∃ t : State, exec (.setPolicy tag tenant 0#8 raw) s = .next t
        ∧ (t.tenant tenant.toNat).active = p
        ∧ (t.tenant tenant.toNat).pendingPolicy = (s.tenant tenant.toNat).pendingPolicy
        ∧ (t.tenant tenant.toNat).state = (s.tenant tenant.toNat).state
        ∧ (s.queueOf tenant.toNat = [] →
          (t.tenant tenant.toNat).credit =
            if p.allowance = 0 then (s.tenant tenant.toNat).credit
            else if (s.tenant tenant.toNat).active.allowance = 0 then p.allowance
            else if p.allowance < (s.tenant tenant.toNat).active.allowance then
              min (s.tenant tenant.toNat).credit (2 * p.allowance)
            else (s.tenant tenant.toNat).credit)
        ∧ (t.tenant tenant.toNat).watch =
            (if (s.tenant tenant.toNat).active.watchSource ≠ p.watchSource
                ∨ (s.tenant tenant.toNat).active.watchLow ≠ p.watchLow
                ∨ (s.tenant tenant.toNat).active.watchHigh ≠ p.watchHigh
                ∨ (s.tenant tenant.toNat).active.watchDepth ≠ p.watchDepth then ⟨0, .none⟩
              else (s.tenant tenant.toNat).watch)
        ∧ ⟨tag, .ok, .policy p⟩ ∈ t.replies
        ∧ WorkKeeps
            (s.noteRx.modTenant tenant.toNat (fun v =>
              { v with
                active := p
                credit :=
                  if p.allowance = 0 then v.credit
                  else if v.active.allowance = 0 then p.allowance
                  else if p.allowance < v.active.allowance then min v.credit (2 * p.allowance)
                  else v.credit
                watch :=
                  if v.active.watchSource ≠ p.watchSource ∨ v.active.watchLow ≠ p.watchLow
                      ∨ v.active.watchHigh ≠ p.watchHigh ∨ v.active.watchDepth ≠ p.watchDepth then ⟨0, .none⟩
                  else v.watch })) t)

/-- SET_POLICY with when EPOCH (R31), and the refusals of SET_POLICY after its first two checks (R26, R25). -/
def Obligations.SetPolicyAtTheNextEpoch : Prop :=
  ∀ tag (tenant : BitVec 16) (code : BitVec 8) (raw : RawPolicy) (s : State), s.takesControl → raw.fits = true →
    s.device ≠ .holding → tenant.toNat ≤ 1023 →
    ((s.tenant tenant.toNat).isServed = false →
      exec (.setPolicy tag tenant code raw) s = .next (s.noteRx.reply tag .tenantState))
    ∧ ((s.tenant tenant.toNat).isServed = true → 1 < code.toNat ∨ policyOf raw = none →
      exec (.setPolicy tag tenant code raw) s = .next (s.noteRx.reply tag .badRequest))
    ∧ ∀ p, (s.tenant tenant.toNat).isServed = true → policyOf raw = some p → code.toNat = 1 →
      (96 < s.floorSum - (s.tenant tenant.toNat).reservation + max (s.tenant tenant.toNat).active.laneFloor p.laneFloor →
        exec (.setPolicy tag tenant code raw) s = .next (s.noteRx.reply tag .noCapacity))
      ∧ (s.floorSum - (s.tenant tenant.toNat).reservation + max (s.tenant tenant.toNat).active.laneFloor p.laneFloor ≤ 96 →
        exec (.setPolicy tag tenant code raw) s =
          .next ((s.noteRx.modTenant tenant.toNat (fun v => { v with pendingPolicy := some p })).reply tag .ok (.policy p)))

/-- CANCEL_PENDING (R33), past the first two checks of R26. -/
def Obligations.CancelPendingWithdrawsTheRecord : Prop :=
  ∀ tag (tenant : BitVec 16) (s : State), s.takesControl → s.device ≠ .holding → tenant.toNat ≤ 1023 →
    ((s.tenant tenant.toNat).state = .vacant ∨ (s.tenant tenant.toNat).state = .draining
        ∨ (s.tenant tenant.toNat).state = .removed →
      exec (.cancelPending tag tenant) s = .next (s.noteRx.reply tag .tenantState))
    ∧ ((s.tenant tenant.toNat).state = .active ∨ (s.tenant tenant.toNat).state = .suspended →
      ((s.tenant tenant.toNat).pendingPolicy = none → exec (.cancelPending tag tenant) s = .next (s.noteRx.reply tag .none))
      ∧ ((s.tenant tenant.toNat).pendingPolicy ≠ none →
        ∃ t : State, exec (.cancelPending tag tenant) s = .next t
          ∧ t = (s.noteRx.modTenant tenant.toNat (fun v => { v with pendingPolicy := none })).reply tag .ok
          ∧ (t.tenant tenant.toNat).reservation = (s.tenant tenant.toNat).active.laneFloor
          ∧ (t.tenant tenant.toNat).active = (s.tenant tenant.toNat).active))

/-- SUSPEND_TENANT (R34) and RESUME_TENANT (R35), past the first two checks of R26. -/
def Obligations.SuspendAndResume : Prop :=
  ∀ tag (tenant : BitVec 16) (s : State), s.takesControl → s.device ≠ .holding → tenant.toNat ≤ 1023 →
    ((s.tenant tenant.toNat).state ≠ .active →
      exec (.suspendTenant tag tenant) s = .next (s.noteRx.reply tag .tenantState))
    ∧ ((s.tenant tenant.toNat).state = .active →
      ∃ t : State, exec (.suspendTenant tag tenant) s = .next t
        ∧ (t.tenant tenant.toNat).state = .suspended ∧ ⟨tag, .ok, .bare⟩ ∈ t.replies
        ∧ WorkKeeps (s.noteRx.modTenant tenant.toNat (fun v => { v with state := .suspended })) t)
    ∧ ((s.tenant tenant.toNat).state ≠ .suspended →
      exec (.resumeTenant tag tenant) s = .next (s.noteRx.reply tag .tenantState))
    ∧ ((s.tenant tenant.toNat).state = .suspended →
      ∃ t : State, exec (.resumeTenant tag tenant) s = .next t
        ∧ (t.tenant tenant.toNat).state = .active ∧ ⟨tag, .ok, .bare⟩ ∈ t.replies
        ∧ WorkKeeps (s.noteRx.modTenant tenant.toNat (fun v => { v with state := .active })) t)

/-- REMOVE_TENANT, past its first three checks (R166, R167, R36): the tenant is leaving, its pending record is gone, and in
ABORT mode every queued frame is answered ABORTED. That the refusal carries its status alone is the model's choice (log 34). -/
def Obligations.RemoveStartsTheDrain : Prop :=
  ∀ tag (tenant : BitVec 16) (mode : BitVec 8) (s : State), s.takesControl → s.device ≠ .holding → tenant.toNat ≤ 1023 →
    tenant.toNat ≠ 0 → mode.toNat ≤ 1 →
    ((s.tenant tenant.toNat).isServed = false →
      exec (.removeTenant tag tenant mode) s = .next (s.noteRx.reply tag .tenantState))
    ∧ ((s.tenant tenant.toNat).isServed = true →
      ∃ t : State, exec (.removeTenant tag tenant mode) s = .next t
        ∧ (t.tenant tenant.toNat).state.isGone = true ∧ (t.tenant tenant.toNat).pendingPolicy = none
        ∧ (∃ owned, ⟨tag, .ok, .removal (if mode.toNat = 1 then (s.queueOf tenant.toNat).length else 0) owned⟩ ∈ t.replies)
        ∧ (mode.toNat = 1 → (∀ g ∈ t.intake, g.tenant ≠ tenant.toNat)
            ∧ ∀ f ∈ s.queueOf tenant.toNat, ⟨f.tag, .aborted, .write f.stream f.staged⟩ ∈ t.replies)
        ∧ WorkKeeps
            (s.noteRx.modTenant tenant.toNat (fun v =>
              { v with
                state := .draining, pendingPolicy := none
                drain := some ⟨if mode.toNat = 1 then .abort else .flush, .frames, .absent⟩ })) t)

/-- FLUSH_TENANT (R82, R83, R84). Past its checks the halves that count are those of the tenant's lanes that are FULL or
PROGRAMMING, or FILLING with a real sector. With none it is answered OK with 0 at once. Otherwise a record waits under the
lowest free control slot for as many halves as count, each of which holds a reference to it (q, before the internal events
that end the command). A record lowered is answered, and leaves, as its count comes to 0. The slot's number (log 18), and that
refusals carry their status alone (log 34), are the model's choices. -/
def Obligations.FlushWaitsForItsHalves : Prop :=
  (∀ tag (tenant : BitVec 16) (s : State), s.takesControl →
    (1023 < tenant.toNat → exec (.flushTenant tag tenant) s = .next (s.noteRx.reply tag .badRequest))
    ∧ (tenant.toNat ≤ 1023 →
      ((s.tenant tenant.toNat).state = .vacant → exec (.flushTenant tag tenant) s = .next (s.noteRx.reply tag .tenantState))
      ∧ ((s.tenant tenant.toNat).state ≠ .vacant →
        ((s.tenant tenant.toNat).active.flushMode = .holdup → s.settings.holdupArmed = true →
          exec (.flushTenant tag tenant) s = .next (s.noteRx.reply tag .ok (.flush 0)))
        ∧ ((s.tenant tenant.toNat).active.flushMode = .pad ∨ s.settings.holdupArmed = false →
          (4 ≤ (s.flushesOf tenant.toNat).length → exec (.flushTenant tag tenant) s = .next (s.noteRx.reply tag .busy))
          ∧ ((s.flushesOf tenant.toNat).length < 4 → s.Canonical →
            ∀ halves : List (Nat × HalfId),
              halves = (s.lanesOf tenant.toNat).flatMap (fun l => ([.a, .b] : List HalfId).filterMap (fun h =>
                if (s.half l h).state = .full ∨ (s.half l h).state = .programming
                    ∨ ((s.lane l).filling = some h ∧ 0 < (s.half l h).realCount) then some (l, h)
                else none)) →
              (halves = [] →
                exec (.flushTenant tag tenant) s = .next ((s.noteRx.runWork.reply tag .ok (.flush 0)).conclude)
                ∧ WorkKeeps s.noteRx (s.noteRx.runWork.reply tag .ok (.flush 0)).conclude)
              ∧ (halves ≠ [] →
                ∃ q : State, exec (.flushTenant tag tenant) s = .next q.conclude
                  ∧ RecordsKept s.noteRx q ∧ WorkKeeps q q.conclude ∧ s.placement <+: q.placement ∧ q.lost = s.lost
                  ∧ q.flushes = s.flushes ++ [⟨s.freeSlot, tag, tenant.toNat, halves.length, halves.length, false⟩]
                  ∧ ∀ p ∈ halves,
                    (q.half p.1 p.2).refs = (s.half p.1 p.2).refs ++ [s.freeSlot]
                    ∧ ((q.half p.1 p.2).state = .full ∨ (q.half p.1 p.2).state = .programming)))))))
  ∧ (∀ (lost : Bool) (s : State) (slot : Nat),
    (s.flushes.find? (fun f => f.slot = slot) = none → State.lowerFlush lost s slot = s)
    ∧ ∀ f, s.flushes.find? (fun f => f.slot = slot) = some f →
      (f.awaited ≤ 1 →
        State.lowerFlush lost s slot =
          { s with
            flushes := s.flushes.filter (fun g => g.slot ≠ slot)
            replies := s.replies ++ [⟨f.tag, if f.lost || lost then .holdAbort else .ok, .flush f.started⟩] })
      ∧ (1 < f.awaited →
        State.lowerFlush lost s slot =
          { s with
            flushes := s.flushes.map
              (fun g => if g.slot = slot then { f with awaited := f.awaited - 1, lost := f.lost || lost } else g) }))

/-- DRAIN_DEADLINE_EXPIRY (R171): where the timer runs, every frame of the queue is answered ABORTED and none is left;
elsewhere there is no such event (log 2). -/
def Obligations.DrainDeadlineEmptiesTheQueue : Prop :=
  ∀ (tenant : BitVec 10) (s : State),
    (s.deadlineRuns tenant.toNat = false → exec (.drainDeadlineExpiry tenant) s = .next s)
    ∧ (s.deadlineRuns tenant.toNat = true →
      ∃ t : State, exec (.drainDeadlineExpiry tenant) s = .next t ∧ WorkKeeps s t
        ∧ (∀ g ∈ t.intake, g.tenant ≠ tenant.toNat)
        ∧ (∀ f ∈ s.queueOf tenant.toNat, ⟨f.tag, .aborted, .write f.stream f.staged⟩ ∈ t.replies)
        ∧ (t.tenant tenant.toNat).state.isGone = true)

/-! ## Units -/

/-- The four list requests (R2, R129, R87, R134, R131): a count of 0 or above 64 is BAD_REQUEST, the device states that
refuse the request give every entry WRONG_STATE, and otherwise the entries are handled one at a time in entry order, each
on the state the one before left and with a status of its own. What a refused list's reply carries is the model's reading
(logs 16, 34). -/
def Obligations.ListRequests : Prop :=
  (∀ (ε : Type) (one : ε → State → State × Status) (s : State),
    handleEntries one [] s = (s, [])
    ∧ ∀ e rest, handleEntries one (e :: rest) s =
      ((handleEntries one rest (one e s).1).1, (one e s).2 :: (handleEntries one rest (one e s).1).2))
  ∧ ∀ tag (force count : BitVec 8) (declared : List DeclareEntry) (ids : List (BitVec 16)) (lowered : List InvalidateEntry)
    (s : State), s.takesControl →
    (listFits count declared.length = true → listFits count ids.length = true → listFits count lowered.length = true →
      (count.toNat = 0 ∨ 64 < count.toNat →
        exec (.declareUnits tag count declared) s = .next (s.noteRx.reply tag .badRequest)
        ∧ exec (.supplyUnits tag count ids) s = .next (s.noteRx.reply tag .badRequest)
        ∧ exec (.releaseUnits tag force count ids) s = .next (s.noteRx.reply tag .badRequest)
        ∧ exec (.invalidate tag count lowered) s = .next (s.noteRx.reply tag .badRequest))
      ∧ (1 ≤ count.toNat → count.toNat ≤ 64 →
        (s.device ≠ .config → exec (.declareUnits tag count declared) s =
          .next (s.noteRx.reply tag .wrongState (.entries (List.replicate declared.length .wrongState))))
        ∧ (s.device = .config → exec (.declareUnits tag count declared) s =
          .next ((handleEntries declareOne declared s.noteRx).1.reply tag .ok
            (.entries (handleEntries declareOne declared s.noteRx).2)))
        ∧ (s.device = .holding → exec (.supplyUnits tag count ids) s =
            .next (s.noteRx.reply tag .wrongState (.entries (List.replicate ids.length .wrongState)))
          ∧ exec (.releaseUnits tag force count ids) s =
            .next (s.noteRx.reply tag .wrongState (.entries (List.replicate ids.length .wrongState))))
        ∧ (s.device ≠ .holding →
          (∃ t : State, exec (.supplyUnits tag count ids) s = .next t
            ∧ WorkKeeps (handleEntries supplyOne ids s.noteRx).1 t
            ∧ ⟨tag, .ok, .entries (handleEntries supplyOne ids s.noteRx).2⟩ ∈ t.replies)
          ∧ exec (.releaseUnits tag force count ids) s =
            .next ((handleEntries (releaseOne (decide (force ≠ 0#8))) ids s.noteRx).1.reply tag .ok
              (.entries (handleEntries (releaseOne (decide (force ≠ 0#8))) ids s.noteRx).2)))
        ∧ exec (.invalidate tag count lowered) s =
          .next ((handleEntries invalidateOne lowered s.noteRx).1.reply tag .ok
            (.entries (handleEntries invalidateOne lowered s.noteRx).2))))

/-- One entry of DECLARE_UNITS (R130). -/
def Obligations.DeclareUnitsEntry : Prop :=
  ∀ (e : Sys2Proof.DeclareEntry) (s : State),
    (32767 < e.unit.toNat ∨ 2 < e.state.toNat ∨ (e.state.toNat = 0 ∧ (1023 < e.owner.toNat ∨ 7 < e.stream.toNat)) →
      declareOne e s = (s, .badRequest))
    ∧ (e.unit.toNat ≤ 32767 → e.state.toNat ≤ 2 → (e.state.toNat = 0 → e.owner.toNat ≤ 1023 ∧ e.stream.toNat ≤ 7) →
      ((s.unit e.unit.toNat).state ≠ .unknown → declareOne e s = (s, .wrongState))
      ∧ ((s.unit e.unit.toNat).state = .unknown →
        (e.state.toNat = 0 → (s.tenant e.owner.toNat).isServed = false → declareOne e s = (s, .tenantState))
        ∧ (e.state.toNat = 0 → (s.tenant e.owner.toNat).isServed = true →
          declareOne e s =
            ((s.setUnit e.unit.toNat
                ⟨.sealed, some (e.owner.toNat, e.stream.toNat), min e.valid.toNat 4096, 4096, 256,
                  some ((s.epoch.toNat : Int) - e.age.toNat), false⟩).modTenant e.owner.toNat
              (fun v => { v with owned := v.owned + 1 }), .ok))
        ∧ (e.state.toNat = 1 →
          declareOne e s = (s.setUnit e.unit.toNat ⟨.vacant, none, 0, 0, 0, none, false⟩, .ok))
        ∧ (e.state.toNat = 2 →
          declareOne e s = (s.setUnit e.unit.toNat ⟨.retired, none, 0, 0, 0, none, true⟩, .ok))))

/-- One entry of SUPPLY_UNITS (R87): the unit becomes FREE and joins the tail of its group's pool. One entry of INVALIDATE
(R131): the valid count alone is lowered, to 0 at the least, and the two counters tell. -/
def Obligations.SupplyAndInvalidateEntries : Prop :=
  (∀ (u : BitVec 16) (s : State),
    (32767 < u.toNat → supplyOne u s = (s, .badRequest))
    ∧ (u.toNat ≤ 32767 →
      ((s.unit u.toNat).state = .unknown ∨ (s.unit u.toNat).state = .vacant →
        supplyOne u s =
          ((s.setUnit u.toNat ⟨.free, none, 0, 0, 0, none, false⟩).setPool (u.toNat % 64 / 8)
            (s.pool (u.toNat % 64 / 8) ++ [u.toNat]), .ok))
      ∧ ((s.unit u.toNat).state ≠ .unknown → (s.unit u.toNat).state ≠ .vacant → supplyOne u s = (s, .wrongState))))
  ∧ ∀ (e : InvalidateEntry) (s : State),
    (32767 < e.unit.toNat ∨ e.count.toNat = 0 ∨ 4096 < e.count.toNat → invalidateOne e s = (s, .badRequest))
    ∧ (e.unit.toNat ≤ 32767 → 1 ≤ e.count.toNat → e.count.toNat ≤ 4096 →
      ((s.unit e.unit.toNat).state = .opened ∨ (s.unit e.unit.toNat).state = .parked
          ∨ (s.unit e.unit.toNat).state = .sealed ∨ (s.unit e.unit.toNat).state = .reclaiming →
        invalidateOne e s =
          ({ s.modUnit e.unit.toNat (fun r => { r with valid := r.valid - e.count.toNat }) with
              counters :=
                if (s.unit e.unit.toNat).valid < e.count.toNat then
                  { s.counters with underruns := min (s.counters.underruns + 1) 4294967295 }
                else s.counters }, .ok))
      ∧ ((s.unit e.unit.toNat).state = .unknown ∨ (s.unit e.unit.toNat).state = .vacant
          ∨ (s.unit e.unit.toNat).state = .free ∨ (s.unit e.unit.toNat).state = .retired →
        invalidateOne e s =
          ({ s with
              counters := { s.counters with invalidatesIgnored := min (s.counters.invalidatesIgnored + 1) 4294967295 } },
            .wrongState)))

/-- One entry of RELEASE_UNITS (R134, R135, R88). A RECLAIMING unit becomes RETIRED if it has failed and VACANT otherwise,
and its owner's count falls. -/
def Obligations.ReleaseUnitsEntry : Prop :=
  ∀ (force : Bool) (u : BitVec 16) (s : State),
    (32767 < u.toNat → releaseOne force u s = (s, .badRequest))
    ∧ (u.toNat ≤ 32767 →
      ((s.unit u.toNat).state ≠ .free → (s.unit u.toNat).state ≠ .reclaiming → releaseOne force u s = (s, .wrongState))
      ∧ ((s.unit u.toNat).state = .free →
        (releaseOne force u s).2 = .ok
        ∧ ((releaseOne force u s).1.unit u.toNat) = { s.unit u.toNat with state := .vacant }
        ∧ (∀ g, (releaseOne force u s).1.pool g =
            if g = u.toNat % 64 / 8 then (s.pool g).erase u.toNat else s.pool g)
        ∧ (releaseOne force u s).1.tenants = s.tenants)
      ∧ ((s.unit u.toNat).state = .reclaiming → 0 < (s.unit u.toNat).valid → force = false →
        releaseOne force u s = (s, .stillValid))
      ∧ ((s.unit u.toNat).state = .reclaiming → (s.unit u.toNat).valid = 0 ∨ force = true →
        (releaseOne force u s).2 = .ok
        ∧ (releaseOne force u s).1.unit u.toNat =
            { s.unit u.toNat with
              state := if (s.unit u.toNat).failed then .retired else .vacant
              owner := none, valid := 0, sealEpoch := none }
        ∧ (releaseOne force u s).1.counters.forcedReleases =
            (if (s.unit u.toNat).valid = 0 then s.counters.forcedReleases
              else min (s.counters.forcedReleases + 1) 4294967295)
        ∧ (∀ t x, (s.unit u.toNat).owner = some (t, x) →
            ((releaseOne force u s).1.tenant t).owned = (s.tenant t).owned - 1
            ∧ ((releaseOne force u s).1.tenant t).state =
              (if (s.tenant t).state = .removed ∧ (s.tenant t).owned - 1 = 0 then .vacant else (s.tenant t).state))))

/-- RECLAIM_UNIT (R133): a SEALED unit becomes RECLAIMING with its record kept, and the reply carries the record as it stood;
the scanner's lists are told (R141, R146; a unit not yet visited changes nothing in the working list). That HOLDING is checked
before the unit id (log 16), and that a refusal carries its status alone (log 34), are the model's choices. -/
def Obligations.ReclaimUnit : Prop :=
  ∀ tag (u : BitVec 16) (s : State), s.takesControl →
    (s.device = .holding → exec (.reclaimUnit tag u) s = .next (s.noteRx.reply tag .wrongState))
    ∧ (s.device ≠ .holding → 32767 < u.toNat → exec (.reclaimUnit tag u) s = .next (s.noteRx.reply tag .badRequest))
    ∧ (s.device ≠ .holding → u.toNat ≤ 32767 → (s.unit u.toNat).state ≠ .sealed →
        exec (.reclaimUnit tag u) s = .next (s.noteRx.reply tag .wrongState))
    ∧ (s.device ≠ .holding → u.toNat ≤ 32767 → (s.unit u.toNat).state = .sealed →
        ∃ t : State, exec (.reclaimUnit tag u) s = .next t
          ∧ t.unit u.toNat = { s.unit u.toNat with state := .reclaiming }
          ∧ (∀ n, n ≠ u.toNat → t.unit n = s.unit n)
          ∧ (∀ owner stream, (s.unit u.toNat).owner = some (owner, stream) →
              t.replies = s.replies ++
                [⟨tag, .ok, .reclaim owner stream (s.unit u.toNat).valid (ageOf s.epoch (s.unit u.toNat))⟩])
          ∧ t.nominations =
              s.nominations.map (fun n => if n.entry.unit = u.toNat then { n with withdrawn := true } else n)
          ∧ (∀ sc, s.scan = some sc → u.toNat < sc.position →
              t.working = s.working.filter (fun e => e.unit ≠ u.toNat))
          ∧ ((s.scan = none ∨ ∃ sc, s.scan = some sc ∧ sc.position ≤ u.toNat) → t.working = s.working)
          ∧ t = { s.noteRx with
              units := t.units, replies := t.replies, nominations := t.nominations, working := t.working })

/-- Score and age of a SEALED unit in whole numbers: the score is the formula of R138 and runs to 1,048,576. -/
def Obligations.ScoreFormula : Prop :=
  ∀ v a : Nat, v ≤ 4096 → a ≤ 255 →
    scoreOf v a = ((4096 - v) * (a + 1) * 256) / (v + 256)
    ∧ (4096 - v) * (a + 1) * 256 ≤ 268435456 ∧ scoreOf v a ≤ 1048576

/-! ## Scans -/

/-- START_SCAN (R142, R144). -/
def Obligations.StartScan : Prop :=
  ∀ tag (scope : BitVec 8) (tenant : BitVec 16) (s : State), s.takesControl →
    (s.device = .holding ∨ s.device = .held → exec (.startScan tag scope tenant) s = .next (s.noteRx.reply tag .wrongState))
    ∧ (s.device = .config ∨ s.device = .running →
      (1 < scope.toNat ∨ (scope.toNat = 1 ∧ 1023 < tenant.toNat) →
        exec (.startScan tag scope tenant) s = .next (s.noteRx.reply tag .badRequest))
      ∧ (scope.toNat = 0 ∨ (scope.toNat = 1 ∧ tenant.toNat ≤ 1023) →
        (s.scan ≠ none → exec (.startScan tag scope tenant) s = .next (s.noteRx.reply tag .busy))
        ∧ (s.scan = none →
          exec (.startScan tag scope tenant) s =
            .next (({ s.noteRx with
                scan := some ⟨if scope.toNat = 0 then .all else .tenant tenant.toNat, 0⟩, working := [] } : State).reply
              tag .ok))))

/-- The walk of a take (R150): entries withdrawn or no longer SEALED are dropped, entries of other tenants keep their places,
and the first other entry is taken. -/
def Obligations.NominationWalk : Prop :=
  ∀ (s : State) (scope : ScanScope) (l : List Nomination),
    (∀ rest, walkNominations s scope l = (rest, none) →
      rest = l.filter (fun n => !n.withdrawn && decide ((s.unit n.entry.unit).state = .sealed))
      ∧ ∀ n ∈ l, n.withdrawn = true ∨ (s.unit n.entry.unit).state ≠ .sealed
          ∨ scope.covers (s.unit n.entry.unit).owner = false)
    ∧ ∀ rest u, walkNominations s scope l = (rest, some u) →
      ∃ before n after, l = before ++ n :: after ∧ n.entry.unit = u ∧ n.withdrawn = false
        ∧ (s.unit u).state = .sealed ∧ scope.covers (s.unit u).owner = true
        ∧ (∀ k ∈ before, k.withdrawn = true ∨ (s.unit k.entry.unit).state ≠ .sealed
            ∨ scope.covers (s.unit k.entry.unit).owner = false)
        ∧ rest = before.filter (fun k => !k.withdrawn && decide ((s.unit k.entry.unit).state = .sealed)) ++ after

/-- TAKE_NOMINATION (R149, R151): NONE where the walk takes nothing; otherwise the unit becomes RECLAIMING with its record
kept, a unit already visited leaves the working list (R146), the reply carries the owner, valid count and score as they stand,
and the owner's watch is handed the valid count as a VICTIM_VALID sample. Nothing else changes. That a refusal carries its
status alone is the model's choice (log 34). -/
def Obligations.TakeNomination : Prop :=
  ∀ tag (scope : BitVec 8) (tenant : BitVec 16) (s : State), s.takesControl →
    (s.device = .holding → exec (.takeNomination tag scope tenant) s = .next (s.noteRx.reply tag .wrongState))
    ∧ (s.device ≠ .holding →
      (1 < scope.toNat ∨ (scope.toNat = 1 ∧ 1023 < tenant.toNat) →
        exec (.takeNomination tag scope tenant) s = .next (s.noteRx.reply tag .badRequest))
      ∧ ∀ sc, (scope.toNat = 0 ∧ sc = .all) ∨ (scope.toNat = 1 ∧ tenant.toNat ≤ 1023 ∧ sc = .tenant tenant.toNat) →
        (∀ rest, walkNominations s sc s.nominations = (rest, none) →
          exec (.takeNomination tag scope tenant) s =
            .next (({ s.noteRx with nominations := rest } : State).reply tag .none))
        ∧ ∀ rest u, walkNominations s sc s.nominations = (rest, some u) →
          ∃ t : State, exec (.takeNomination tag scope tenant) s = .next t
            ∧ t.unit u = { s.unit u with state := .reclaiming } ∧ (∀ n, n ≠ u → t.unit n = s.unit n)
            ∧ t.replies = s.replies ++
                [⟨tag, .ok, .nomination u (s.unit u).ownerTenant (s.unit u).valid
                  (scoreOf (s.unit u).valid (ageOf s.epoch (s.unit u)))⟩]
            ∧ t.nominations = rest.map (fun n => if n.entry.unit = u then { n with withdrawn := true } else n)
            ∧ t.working =
                (match s.scan with
                  | some k => if u < k.position then s.working.filter (fun e => e.unit ≠ u) else s.working
                  | none => s.working)
            ∧ (∀ n, n ≠ (s.unit u).ownerTenant → t.tenant n = s.tenant n)
            ∧ t = State.sample
                { s.noteRx.setUnit u { s.unit u with state := .reclaiming } with
                  nominations := t.nominations, working := t.working, replies := t.replies }
                (s.unit u).ownerTenant .victimValid (s.unit u).valid)

/-- SCAN_VISIT (R145, R147): the unit at the walk position is kept or not, the position rises, and after unit 32,767 the
working list replaces the nomination list. A kept unit stands behind every entry of at least its score and ahead of every lower
one, and the list stays in that order. With no scan there is no visit (log 2). -/
def Obligations.ScanVisit : Prop :=
  (∀ (e : WorkEntry) (l : List WorkEntry), l.Pairwise (fun a b => b.score ≤ a.score) →
    (insertWork e l).Pairwise (fun a b => b.score ≤ a.score)
    ∧ ∃ before after, l = before ++ after ∧ insertWork e l = before ++ e :: after
      ∧ (∀ k ∈ before, e.score ≤ k.score) ∧ ∀ k ∈ after, k.score < e.score)
  ∧ ∀ s : State,
    (s.scan = none → exec .scanVisit s = .next s)
    ∧ ∀ sc, s.scan = some sc →
      ∃ kept : List WorkEntry,
        kept =
          (if (s.unit sc.position).state = .sealed ∧ sc.scope.covers (s.unit sc.position).owner = true
              ∧ 0 < scoreOf (s.unit sc.position).valid (ageOf s.epoch (s.unit sc.position)) then
            (insertWork ⟨sc.position, (s.unit sc.position).ownerTenant, (s.unit sc.position).valid,
              scoreOf (s.unit sc.position).valid (ageOf s.epoch (s.unit sc.position))⟩ s.working).take 16
          else s.working)
        ∧ (sc.position < 32767 →
          exec .scanVisit s = .next { s with scan := some ⟨sc.scope, sc.position + 1⟩, working := kept })
        ∧ (32767 ≤ sc.position →
          ∃ t : State, exec .scanVisit s = .next t
            ∧ t.nominations = kept.map (fun e => ⟨e, false⟩) ∧ t.working = []
            ∧ t.scan =
                (if s.device = .running ∧ s.settings.trigger = .continuous then some ⟨.all, 0⟩ else none)
            ∧ t = State.post { s with nominations := t.nominations, working := [], scan := t.scan } 1024
                .nominationsReady (BitVec.ofNat 32 kept.length))

/-! ## Epochs and watches -/

/-- A boundary, timed or forced (R154, R155, R156, R32): the epoch number rises by one and the timer starts again; a pending
record of an ACTIVE or SUSPENDED tenant becomes its active record unless the policy hold is on. Balances are refilled under the
record then in force (R50; with no frame queued nothing charges them meanwhile), the CREDIT_LEFT and EVICTIONS samples are taken
(R50, R162; where no record is applied), the scan repetition counter falls or is loaded (R159), and an EPOCH notice is posted
where it is enabled and the boundary is not quiet (R160). FORCE_EPOCH is answered with the new number and refused outside
RUNNING (with its status alone: the model's choice, log 34); a timed boundary occurs in RUNNING alone (log 2). -/
def Obligations.EpochBoundary : Prop :=
  ∀ (s : State),
    (s.device ≠ .running →
      exec .epochBoundary s = .next s
      ∧ ∀ tag quiet, s.takesControl → exec (.forceEpoch tag quiet) s = .next (s.noteRx.reply tag .wrongState))
    ∧ (s.device = .running →
      ∀ c (forced quiet : Bool),
        (c = .epochBoundary ∧ s.epochTimer ≠ none ∧ forced = false ∧ quiet = false)
          ∨ (∃ tag q, c = .forceEpoch tag q ∧ s.takesControl ∧ forced = true ∧ quiet = decide (q ≠ 0#8)) →
        ∃ t : State, exec c s = .next t ∧ t.device = .running ∧ t.epoch = s.epoch + 1#32
          ∧ t.epochTimer = some s.settings.epochLength
          ∧ (∀ tag q, c = .forceEpoch tag q → ⟨tag, .ok, .epoch (s.epoch + 1#32)⟩ ∈ t.replies)
          ∧ s.replies <+: t.replies
          ∧ (s.policyHold = false → ∀ n p, (s.tenant n).isServed = true → (s.tenant n).pendingPolicy = some p →
              (t.tenant n).active = p ∧ (t.tenant n).pendingPolicy = none)
          ∧ (∀ n, s.policyHold = true ∨ (s.tenant n).pendingPolicy = none →
              (t.tenant n).active = (s.tenant n).active)
          ∧ (∀ n, (s.tenant n).isServed = true → (t.tenant n).state = (s.tenant n).state)
          ∧ (s.Canonical → ∀ n v, s.queueOf n = [] →
              v =
                (if s.policyHold = false ∧ (s.tenant n).isServed = true then
                  (match (s.tenant n).pendingPolicy with
                    | some p => Tenant.under p (s.tenant n)
                    | none => s.tenant n)
                else s.tenant n) →
              (t.tenant n).credit = (Tenant.refill v).credit)
          ∧ (s.Canonical → s.policyHold = true ∨ (∀ k, (s.tenant k).pendingPolicy = none) →
              ∀ n source sample, (s.tenant n).isServed = true → (s.tenant n).active.watchSource = source →
              (source = .creditLeft ∧ (s.tenant n).active.allowance ≠ 0 ∧ sample = min (s.tenant n).credit 65535)
                ∨ (source = .evictions ∧ sample = (s.tenant n).epochEvictions) →
              (t.tenant n).watch = ((s.sample n source sample).tenant n).watch
                ∧ t.pendingOf n .watch = (s.sample n source sample).pendingOf n .watch)
          ∧ t.scanCount =
              (if forced = true ∨ s.scanCount = 0 then s.settings.scanRepetition else s.scanCount - 1)
          ∧ t.pendingOf 1024 .epoch =
              (if s.settings.epochNotice = true ∧ quiet = false then
                (match s.pendingOf 1024 .epoch with
                  | none => some ⟨.epoch, 1, s.epoch + 1#32⟩
                  | some e => some ⟨.epoch, min (e.repeats + 1) 255, s.epoch + 1#32⟩)
              else s.pendingOf 1024 .epoch)
          ∧ (∀ u, (t.unit u).valid = (s.unit u).valid ∧ (t.unit u).programmed = (s.unit u).programmed
              ∧ (t.unit u).failed = (s.unit u).failed
              ∧ (t.unit u).sealEpoch = (ageUnit s.epoch (s.unit u)).sealEpoch)
          ∧ t.settings = s.settings ∧ t.policyHold = s.policyHold ∧ t.credit = s.credit ∧ t.flushes = s.flushes
          ∧ s.placement <+: t.placement)

/-- The parts of a boundary that are functions of one record. The age of every SEALED unit rises by one up to 255, where it
stays, across the wrap of the epoch number (R127). A tenant that is not VACANT and has a limited allowance gets its allowance,
up to twice the allowance, and no other balance moves (R50). The scan repetition counter falls, or is loaded and raises a
trigger (R159, R143). -/
def Obligations.WorkOfABoundary : Prop :=
  (∀ (epoch : BitVec 32) (r : UnitRec), r.state = .sealed → r.sealEpoch ≠ none →
    ageOf (epoch + 1#32) (ageUnit epoch r) = min (ageOf epoch r + 1) 255)
  ∧ (∀ v : Tenant,
    (v.state ≠ .vacant → v.active.allowance ≠ 0 →
      v.refill = { v with credit := min (v.credit + v.active.allowance) (2 * v.active.allowance) })
    ∧ (v.state = .vacant ∨ v.active.allowance = 0 → v.refill = v))
  ∧ (∀ (forced : Bool) (s : State),
    (forced = false → 0 < s.scanCount → s.repetition forced = { s with scanCount := s.scanCount - 1 })
    ∧ (forced = true ∨ s.scanCount = 0 →
      (s.settings.trigger ≠ .epoch → s.repetition forced = { s with scanCount := s.settings.scanRepetition })
      ∧ (s.settings.trigger = .epoch → s.scan = none → s.device = .running →
        s.repetition forced =
          { s with scanCount := s.settings.scanRepetition, scan := some ⟨.all, 0⟩, working := [] })
      ∧ (s.settings.trigger = .epoch → s.scan ≠ none →
        s.repetition forced =
          { s with
            scanCount := s.settings.scanRepetition
            counters := { s.counters with triggersIgnored := min (s.counters.triggersIgnored + 1) 4294967295 } })))

/-- A sample handed to a tenant's watch (R162, R163): ignored when the watch is off, not of that source, or the tenant not
ACTIVE or SUSPENDED; otherwise classified, counted, and at the filter depth posted as WATCH. -/
def Obligations.WatchSample : Prop :=
  ∀ (s : State) (n x : Nat) (source : WatchSource),
    ((s.tenant n).isServed = false ∨ (s.tenant n).active.watchSource ≠ source ∨ (s.tenant n).active.watchDepth = 0 →
      s.sample n source x = s)
    ∧ ((s.tenant n).isServed = true → (s.tenant n).active.watchSource = source → 0 < (s.tenant n).active.watchDepth →
      ∀ side : Side,
        ((s.tenant n).active.watchHigh < x ∧ side = .over)
            ∨ (¬(s.tenant n).active.watchHigh < x ∧ x < (s.tenant n).active.watchLow ∧ side = .under)
            ∨ (¬(s.tenant n).active.watchHigh < x ∧ ¬x < (s.tenant n).active.watchLow ∧ side = .none) →
        (side = .none → s.sample n source x = s.modTenant n (fun v => { v with watch := ⟨0, .none⟩ }))
        ∧ (side ≠ .none →
          ∀ k, k = (if (s.tenant n).watch.side = side then (s.tenant n).watch.count + 1 else 1) →
            (k ≠ (s.tenant n).active.watchDepth →
              s.sample n source x = s.modTenant n (fun v => { v with watch := ⟨k, side⟩ }))
            ∧ (k = (s.tenant n).active.watchDepth →
              s.sample n source x =
                (s.modTenant n (fun v => { v with watch := ⟨0, .none⟩ })).post n .watch
                  (BitVec.ofNat 32 ((if side = .over then 1 else 2) * 16777216 + x)))))

/-! ## Media -/

/-- Which head entries are eligible (R103), which entry is dispatched as it joins a queue (R105) and which heads are granted
as an order ends (R106: the first eligible die of the circle, again and again, until the group has none), and the dispatch of
a head entry (R104, R100). A half reserves the tail of the placement queue unless it holds a reservation, its order carries
its unit, stripe, seal mark and slots under the die's sequence, and it is PROGRAMMING; a seal request makes a seal order of
its unit and reserves nothing. The sequence advances, and the group's pointer names the die after it. That MDL_RST is let go
at a dispatch is the model's choice (log 21). -/
def Obligations.OrdersAreDispatched : Prop :=
  (∀ (s : State) (d : Nat),
    s.eligible d = true ↔
      ∃ e rest, (s.die d).queue = e :: rest ∧ (s.die d).busy = none ∧ s.inFlight (d / 8) < s.settings.groupLimit
        ∧ ∀ l h, e = .half l h → s.hasReservation l h = false → s.placement.length < 256)
  ∧ (∀ (s : State) d l h rest u n, (s.die d).queue = .half l h :: rest → (s.half l h).assigned = some (u, n) →
    (s.dispatch d).die d =
        ⟨rest, some ⟨(s.die d).seq, u, .program l h n (s.half l h).sealMark ((s.half l h).slots.map Slot.bytes),
          s.settings.programTimeout⟩, (s.die d).seq + 1#8⟩
      ∧ (s.dispatch d).half l h = { s.half l h with state := .programming }
      ∧ (s.dispatch d).placement =
          (if s.hasReservation l h then s.placement else s.placement ++ [.reserved l h]))
  ∧ (∀ (s : State) d u rest, (s.die d).queue = .seal u :: rest →
    (s.dispatch d).die d = ⟨rest, some ⟨(s.die d).seq, u, .seal, s.settings.programTimeout⟩, (s.die d).seq + 1#8⟩
      ∧ (s.dispatch d).lanes = s.lanes ∧ (s.dispatch d).placement = s.placement)
  ∧ (∀ (s : State) d, (s.die d).queue ≠ [] →
    rowOf 0 (s.dispatch d).groupPos (d / 8) = (d + 1) % 8 ∧ (s.dispatch d).mdlRst = false
      ∧ (∀ k, k ≠ d → (s.dispatch d).die k = s.die k)
      ∧ (s.dispatch d).units = s.units ∧ (s.dispatch d).tenants = s.tenants ∧ (s.dispatch d).replies = s.replies)
  ∧ (∀ (s q : State) d e, q = s.setDie d { s.die d with queue := (s.die d).queue ++ [e] } →
    ((s.die d).queue = [] → q.eligible d = true → s.joinDie d e = q.dispatch d)
    ∧ ((s.die d).queue ≠ [] ∨ q.eligible d = false → s.joinDie d e = q))
  ∧ (∀ (s : State) (d : Nat),
    s.endOrder d =
      State.grantGroup (d / 8) 8 { s.setDie d { s.die d with busy := none } with ordersSent := s.ordersSent.erase d })
  ∧ (∀ (s : State) (g : Nat) (circle : List Nat),
    circle = (List.range 8).map (fun i => 8 * g + (rowOf 0 s.groupPos g + i) % 8) →
    ∀ n, (circle.find? s.eligible = none → State.grantGroup g n s = s)
      ∧ ∀ d, circle.find? s.eligible = some d → State.grantGroup g (n + 1) s = State.grantGroup g n (s.dispatch d))
  ∧ (∀ (s : State) (g d : Nat), d / 8 = g → (State.grantGroup g 8 s).eligible d = false)

/-- A report on an IDLE die, one whose sequence, unit or kind is not that of the order in flight, and a damaged one, are stale
(R99, R108): counted, posted as MEDIA_STALE, and nothing else. -/
def Obligations.StaleReports : Prop :=
  ∀ (s : State) (die : BitVec 6) (seq : BitVec 8) (unit : BitVec 15),
    ∀ c, c = .mediaReportCorrupt
        ∨ ((∀ o, (s.die die.toNat).busy = some o → o.seq ≠ seq ∨ o.unit ≠ unit.toNat ∨ o.kind = .seal)
          ∧ (c = .programDone die seq unit ∨ c = .programFail die seq unit))
        ∨ ((∀ o, (s.die die.toNat).busy = some o → o.seq ≠ seq ∨ o.unit ≠ unit.toNat ∨ o.kind ≠ .seal)
          ∧ (c = .sealDone die seq unit ∨ c = .sealFail die seq unit)) →
      exec c s =
        .next (State.post
          { s with counters := { s.counters with staleReports := min (s.counters.staleReports + 1) 4294967295 } } 1024
          .mediaStale (BitVec.ofNat 32 (min (s.counters.staleReports + 1) 4294967295)))

/-- PROGRAM_DONE that matches (R109, R110, R80): the half's real sectors join the unit's counts and the placed counters, its
reserved place becomes READY with its extents, the fail run is 0, and with the seal mark the unit, OPEN till then, is SEALED at
the epoch number. Each flush record the half references is lowered by one and answered at 0 (R84). -/
def Obligations.ProgramDone : Prop :=
  ∀ (s : State) (die : BitVec 6) (seq : BitVec 8) (unit : BitVec 15) l h n mark slots timer t x,
    (s.die die.toNat).busy = some ⟨seq, unit.toNat, .program l h n mark slots, timer⟩ →
    (s.lane l).stream = some (t, x) → (s.half l h).assigned = some (unit.toNat, n) →
    ∃ q : State, exec (.programDone die seq unit) s = .next q
      ∧ (q.unit unit.toNat).valid = (s.unit unit.toNat).valid + (s.half l h).realCount
      ∧ (q.unit unit.toNat).programmed = (s.unit unit.toNat).programmed + (s.half l h).realCount
      ∧ (q.unit unit.toNat).failed = (s.unit unit.toNat).failed
      ∧ (mark = true → (s.unit unit.toNat).state = .opened ∨ (s.unit unit.toNat).state = .parked →
          (q.unit unit.toNat).sealEpoch = some (s.epoch.toNat : Int) ∧ (q.unit unit.toNat).state = .sealed)
      ∧ ((s.half l h).refs.Nodup → ∀ f slot, s.flushes.find? (fun g => g.slot = slot) = some f →
          (slot ∈ (s.half l h).refs → f.awaited ≤ 1 →
            ⟨f.tag, if f.lost then .holdAbort else .ok, .flush f.started⟩ ∈ q.replies ∧ ∀ g ∈ q.flushes, g.slot ≠ slot)
          ∧ (slot ∈ (s.half l h).refs → 1 < f.awaited → { f with awaited := f.awaited - 1 } ∈ q.flushes)
          ∧ (slot ∉ (s.half l h).refs → f ∈ q.flushes))
      ∧ (mark = false → (q.unit unit.toNat).sealEpoch = (s.unit unit.toNat).sealEpoch)
      ∧ (∀ u, u ≠ unit.toNat → (q.unit u).valid = (s.unit u).valid ∧ (q.unit u).programmed = (s.unit u).programmed
          ∧ (q.unit u).sealEpoch = (s.unit u).sealEpoch ∧ (q.unit u).failed = (s.unit u).failed)
      ∧ (q.lane l).failRun = 0 ∧ (∀ k, k ≠ l → (q.lane k).failRun = (s.lane k).failRun)
      ∧ (q.tenant t).counters.placed = min ((s.tenant t).counters.placed + (s.half l h).realCount) 4294967295
      ∧ (q.stream t x).placed = min ((s.stream t x).placed + (s.half l h).realCount) 4294967295
      ∧ s.placement.map (fun e => if e = .reserved l h then
            .ready t x (extentsOf unit.toNat n (s.half l h).slots) else e) <+: q.placement
      ∧ s.replies <+: q.replies ∧ q.settings = s.settings ∧ q.epoch = s.epoch ∧ q.credit = s.credit
      ∧ (s.device ≠ .holding → q.device = s.device)
      ∧ (∀ k, (q.tenant k).active = (s.tenant k).active)

/-- Extents of a half (R80): in slot order they give each real slot's write tag and frame sector, and no pad slot. A half holds
its real slots before its pad slots (R58); each real slot then stands in exactly the slot its extent gives it, and no two
extents that follow one another could be one. -/
def Obligations.ExtentsCoverTheRealSlots : Prop :=
  (∀ (u n : Nat) (slots : List Slot),
    (extentsOf u n slots).flatMap (fun e => (List.range e.count).map (fun i => (e.writeTag, e.firstSector + i))) =
        slots.filterMap (fun v => match v with | .real _ tag index _ => some (tag, index) | .pad => none)
      ∧ ∀ e ∈ extentsOf u n slots, e.unit = u ∧ e.stripe = n ∧ 1 ≤ e.count)
  ∧ (∀ (u n pads : Nat) (real : List Slot), (∀ v ∈ real, v.isReal = true) →
    ∀ extents : List Extent, extents = extentsOf u n (real ++ List.replicate pads .pad) →
    extents.flatMap (fun e =>
        (List.range e.count).map (fun i => (e.writeTag, e.firstSector + i, e.firstSlot + i))) =
      real.zipIdx.filterMap (fun v => match v.1 with | .real _ tag index _ => some (tag, index, v.2) | .pad => none)
    ∧ ∀ i (e f : Extent), extents[i]? = some e → extents[i + 1]? = some f →
      ¬(f.writeTag = e.writeTag ∧ f.firstSector = e.firstSector + e.count))

/-- PROGRAM_FAIL that matches and PROGRAM_TIMEOUT (R111, R115): the unit, OPEN till then, is RECLAIMING, with its failed mark
and its counts kept, the counter of the one or the other rises, the lane's tenant is told, and the fail run rises to 255 at
most. A die without a program order has no such expiry (log 2). -/
def Obligations.ProgramLost : Prop :=
  ∀ (s : State) (die : BitVec 6) (seq : BitVec 8) (unit : BitVec 15),
    ((∀ q v l h n mark slots timer, (s.die die.toNat).busy ≠ some ⟨q, v, .program l h n mark slots, timer⟩) →
      exec (.programTimeout die) s = .next s)
    ∧ ∀ l h n mark slots timer t x,
      (s.die die.toNat).busy = some ⟨seq, unit.toNat, .program l h n mark slots, timer⟩ →
      (s.lane l).stream = some (t, x) →
      ∀ c, c = .programFail die seq unit ∨ c = .programTimeout die →
        ∃ q : State, exec c s = .next q
          ∧ ((s.unit unit.toNat).state = .opened ∨ (s.unit unit.toNat).state = .parked →
              (q.unit unit.toNat).state = .reclaiming ∧ (q.unit unit.toNat).owner = (s.unit unit.toNat).owner)
          ∧ (q.unit unit.toNat).failed = true
          ∧ (∀ u, (q.unit u).valid = (s.unit u).valid ∧ (q.unit u).programmed = (s.unit u).programmed
              ∧ (q.unit u).sealEpoch = (s.unit u).sealEpoch)
          ∧ (∀ u, u ≠ unit.toNat → (q.unit u).failed = (s.unit u).failed)
          ∧ q.counters.programFails =
              (if c = .programFail die seq unit then min (s.counters.programFails + 1) 4294967295
                else s.counters.programFails)
          ∧ q.counters.programTimeouts =
              (if c = .programTimeout die then min (s.counters.programTimeouts + 1) 4294967295
                else s.counters.programTimeouts)
          ∧ (∃ e, q.pendingOf t .unitFailed = some e ∧ e.detail = BitVec.ofNat 32 unit.toNat)
          ∧ (q.lane l).failRun = min ((s.lane l).failRun + 1) 255
          ∧ (∀ k, k ≠ l → (q.lane k).failRun = (s.lane k).failRun)
          ∧ s.replies <+: q.replies ∧ q.settings = s.settings ∧ q.epoch = s.epoch ∧ q.credit = s.credit
          ∧ (s.device ≠ .holding → q.device = s.device ∧ q.flushes = s.flushes ∧ s.placement <+: q.placement)

/-- SEAL_DONE that matches (R118): the unit, OPEN or PARKED till then, is SEALED at the epoch number and its counts are
unchanged. -/
def Obligations.SealDone : Prop :=
  ∀ (s : State) (die : BitVec 6) (seq : BitVec 8) (unit : BitVec 15) timer,
    (s.die die.toNat).busy = some ⟨seq, unit.toNat, .seal, timer⟩ →
    ∃ q : State, exec (.sealDone die seq unit) s = .next q
      ∧ ((s.unit unit.toNat).state = .opened ∨ (s.unit unit.toNat).state = .parked →
          (q.unit unit.toNat).state = .sealed ∧ (q.unit unit.toNat).sealEpoch = some (s.epoch.toNat : Int)
          ∧ (q.unit unit.toNat).owner = (s.unit unit.toNat).owner)
      ∧ (∀ u, u ≠ unit.toNat → (q.unit u).sealEpoch = (s.unit u).sealEpoch)
      ∧ (∀ u, (q.unit u).valid = (s.unit u).valid ∧ (q.unit u).programmed = (s.unit u).programmed
          ∧ (q.unit u).failed = (s.unit u).failed)
      ∧ (∀ k, (q.lane k).failRun = (s.lane k).failRun)
      ∧ s.replies <+: q.replies ∧ q.settings = s.settings ∧ q.epoch = s.epoch ∧ q.credit = s.credit
      ∧ q.flushes = s.flushes ∧ s.placement <+: q.placement

/-- SEAL_FAIL that matches and SEAL_TIMEOUT (R119, R115): the unit, OPEN or PARKED till then, is RECLAIMING with its failed
mark, its owner is told, and the counter of the one or the other rises; no fail run changes. A die without a seal order has no
such expiry (log 2). -/
def Obligations.SealLost : Prop :=
  ∀ (s : State) (die : BitVec 6) (seq : BitVec 8) (unit : BitVec 15),
    ((∀ q v timer, (s.die die.toNat).busy ≠ some ⟨q, v, .seal, timer⟩) → exec (.sealTimeout die) s = .next s)
    ∧ ∀ timer, (s.die die.toNat).busy = some ⟨seq, unit.toNat, .seal, timer⟩ →
      ∀ c, c = .sealFail die seq unit ∨ c = .sealTimeout die →
        ∃ q : State, exec c s = .next q
          ∧ ((s.unit unit.toNat).state = .opened ∨ (s.unit unit.toNat).state = .parked →
              (q.unit unit.toNat).state = .reclaiming ∧ (q.unit unit.toNat).owner = (s.unit unit.toNat).owner)
          ∧ (q.unit unit.toNat).failed = true
          ∧ (∀ u, (q.unit u).valid = (s.unit u).valid ∧ (q.unit u).programmed = (s.unit u).programmed
              ∧ (q.unit u).sealEpoch = (s.unit u).sealEpoch)
          ∧ (∀ u, u ≠ unit.toNat → (q.unit u).failed = (s.unit u).failed)
          ∧ q.counters.programFails =
              (if c = .sealFail die seq unit then min (s.counters.programFails + 1) 4294967295
                else s.counters.programFails)
          ∧ q.counters.programTimeouts =
              (if c = .sealTimeout die then min (s.counters.programTimeouts + 1) 4294967295
                else s.counters.programTimeouts)
          ∧ (∀ t x, (s.unit unit.toNat).owner = some (t, x) →
              ∃ e, q.pendingOf t .unitFailed = some e ∧ e.detail = BitVec.ofNat 32 unit.toNat)
          ∧ (∀ k, (q.lane k).failRun = (s.lane k).failRun)
          ∧ s.replies <+: q.replies ∧ q.settings = s.settings ∧ q.epoch = s.epoch ∧ q.credit = s.credit
          ∧ q.flushes = s.flushes ∧ s.placement <+: q.placement

/-! ## Writes -/

/-- The refusals of a WRITE at the link port and at arrival, in their order (R5, R41): each carries the status alone and
nothing else changes. -/
def Obligations.WriteRefusals : Prop :=
  ∀ tag (tenant : BitVec 16) (hint flags : BitVec 8) (writeTag : BitVec 32) (count : BitVec 8) (sectors : List Sector)
    (s : State), s.takesFrames → sectorsFit count sectors.length = true →
    (64 ≤ s.intake.length →
      exec (.write tag tenant hint flags writeTag count sectors) s = .next (s.noteRx.reply tag .noSlot))
    ∧ (s.intake.length < 64 →
      (1023 < tenant.toNat ∨ count.toNat = 0 ∨ 16 < count.toNat →
        exec (.write tag tenant hint flags writeTag count sectors) s = .next (s.noteRx.reply tag .badRequest))
      ∧ (tenant.toNat ≤ 1023 → 1 ≤ count.toNat → count.toNat ≤ 16 →
        (s.device = .config →
          exec (.write tag tenant hint flags writeTag count sectors) s = .next (s.noteRx.reply tag .wrongState))
        ∧ (s.device = .holding ∨ s.device = .held →
          exec (.write tag tenant hint flags writeTag count sectors) s = .next (s.noteRx.reply tag .holdAbort))
        ∧ (s.device = .running → (s.tenant tenant.toNat).state = .vacant ∨ (s.tenant tenant.toNat).state = .draining
            ∨ (s.tenant tenant.toNat).state = .removed →
          exec (.write tag tenant hint flags writeTag count sectors) s = .next (s.noteRx.reply tag .tenantState))))

/-- Classification (R39): the relocation flag alone decides stream 7; otherwise the hint's low four bits select a map entry,
which is the stream when below the number of active streams and stream 0, counted, when not. A WRITE that passes (R41, R42) is
classified under the active record of that moment and queued behind the frames of its tenant; what follows keeps or answers
every queued frame. Behind another frame, with nothing left to be done, the queueing is all that happens. -/
def Obligations.WritesAreQueued : Prop :=
  (∀ (p : Policy) (hint : BitVec 8),
    classify p hint true = (7, false)
    ∧ (p.streamMap.getD (hint.toNat % 16) 0 < p.activeStreams →
        classify p hint false = (p.streamMap.getD (hint.toNat % 16) 0, false))
    ∧ (p.activeStreams ≤ p.streamMap.getD (hint.toNat % 16) 0 → classify p hint false = (0, true)))
  ∧ (∀ tag (tenant : BitVec 16) (hint flags : BitVec 8) (writeTag : BitVec 32) (count : BitVec 8) (sectors : List Sector)
    (s : State), s.takesFrames → sectorsFit count sectors.length = true → s.intake.length < 64 →
    tenant.toNat ≤ 1023 → 1 ≤ count.toNat → count.toNat ≤ 16 → s.device = .running →
    (s.tenant tenant.toNat).state = .active ∨ (s.tenant tenant.toNat).state = .suspended →
    ∀ (k : Nat × Bool) (f : Frame) (s' : State),
      k = classify (s.tenant tenant.toNat).active hint (flags.getLsbD 0) →
      f = ⟨tag, tenant.toNat, k.1, flags.getLsbD 0, writeTag, sectors, 0, .unsettled, false, .queued⟩ →
      s' = (if k.2 then
          s.noteRx.modTenant tenant.toNat (fun v =>
            { v with counters := { v.counters with mapClamps := min (v.counters.mapClamps + 1) 4294967295 } })
        else s.noteRx) →
      (∃ t : State, exec (.write tag tenant hint flags writeTag count sectors) s = .next t
        ∧ WorkKeeps { s' with intake := s.intake ++ [f] } t)
      ∧ (s.isQuiet → s.headOf tenant.toNat ≠ none →
        exec (.write tag tenant hint flags writeTag count sectors) s = .next { s' with intake := s.intake ++ [f] }))

/-- SECTOR_OFFER where the head stands at the staging step and its stream is bound (R46, R68), with nothing left to be done and
the frame not complete: the next sector goes into the next slot and the lane becomes the most recently staged. Below the 16th
slot that is all. At the 16th the half is FULL (R70): it is assigned the lane's current unit and next stripe and joins that
unit's die queue, or, with no current unit, it waits, marked after a half that waits already; an EMPTY other half becomes
FILLING. At stripe 255 the seal mark is set, and the lane, left without a unit, takes one at once (R71; what a lane takes is
UnitsAreTaken, what joins a die queue is OrdersAreDispatched). -/
def Obligations.SectorIsStaged : Prop :=
  ∀ (tenant : BitVec 10) (s : State) f l h, s.Canonical → s.isQuiet → s.servesHead tenant.toNat = true →
    s.headOf tenant.toNat = some f → f.step = .staging → (s.stream tenant.toNat f.stream).binding = .bound l →
    (f.staged ≠ 0 ∨ s.refusesFirst tenant.toNat l = false) → (s.lane l).room = some h →
    f.staged + 1 ≠ f.sectors.length →
    ∀ (half other : Half) (q : State),
    half = { s.half l h with
      slots := (s.half l h).slots ++ [.real tenant.toNat f.writeTag f.staged (f.sectors.getD f.staged 0#32768)] } →
    other = (if (s.half l h.other).state = .empty then { s.half l h.other with state := .filling }
      else s.half l h.other) →
    q = ({ s with recency := s.recency.erase l ++ [l] } : State).modHead tenant.toNat
      (fun g => { g with staged := f.staged + 1 }) →
    ((s.half l h).slots.length + 1 ≠ 16 →
      exec (.sectorOffer tenant) s = .next (q.setLane l ((s.lane l).setHalf h { half with state := .filling })))
    ∧ ((s.half l h).slots.length + 1 = 16 →
      ((s.lane l).current = none →
        exec (.sectorOffer tenant) s =
          .next (q.setLane l
            { ((s.lane l).setHalf h { half with state := .full }).setHalf h.other other with
              firstFull :=
                if (s.half l h.other).state = .full ∧ (s.half l h.other).assigned = none then some h.other
                else (s.lane l).firstFull }))
      ∧ ∀ u n (j k : State), (s.lane l).current = some (u, n) →
        j = ((q.setLane l
            { (s.lane l).setHalf h { half with state := .full, assigned := some (u, n), sealMark := decide (n = 255) } with
              current := if n = 255 then none else some (u, n + 1), firstFull := none }).setUnit u
            { s.unit u with nextStripe := n + 1 }).joinDie (u % 64) (.half l h) →
        k = (if (s.half l h.other).state = .empty then j.modHalf l h.other (fun v => { v with state := .filling }) else j) →
        (n ≠ 255 → exec (.sectorOffer tenant) s = .next k)
        ∧ (n = 255 →
          exec (.sectorOffer tenant) s = .next (k.takeUnit l).conclude
          ∧ WorkKeeps (k.takeUnit l) (k.takeUnit l).conclude))

/-- A lane takes a unit (R63): the stream's parked unit, with the next stripe recorded for it, else the head of the pool
chosen, with next stripe 0; a lane in UNIT_WAIT becomes ACTIVE and leaves the unit wait queue. The pool chosen is the fullest
among those of the mask, the lowest on a tie (R89), and under SPILL, where these are empty, among all eight (R90). With no
unit a bound lane is in UNIT_WAIT, in the unit wait queue at its tail or at its place (R91), and under REFUSE it drops a
FILLING half without a real sector, and the frames of its stream with nothing staged leave with a NO_SPACE notice (R92). -/
def Obligations.UnitsAreTaken : Prop :=
  (∀ (s : State) (mask : BitVec 8) (policy : NoUnit) (masked : List Nat),
    masked = (List.range 8).filter (fun g => mask.getLsbD g) →
    (∀ g, s.choosePool mask policy = some g →
      ∃ allowed : List Nat,
        (allowed = masked ∨ policy = .spill ∧ allowed = List.range 8 ∧ ∀ k ∈ masked, s.pool k = [])
        ∧ g ∈ allowed ∧ s.pool g ≠ []
        ∧ ∀ k ∈ allowed, (s.pool k).length ≤ (s.pool g).length ∧ (k < g → (s.pool k).length < (s.pool g).length))
    ∧ (s.choosePool mask policy = none →
      (∀ k ∈ masked, s.pool k = []) ∧ (policy = .spill → ∀ k, k < 8 → s.pool k = [])))
  ∧ ∀ (s t : State) (l owner x : Nat) (policy : NoUnit), (s.lane l).stream = some (owner, x) → t = s.takeUnit l →
    policy = (if s.device = .holding ∨ ((s.tenant owner).isClosed = true ∧ (s.lane l).isBound = false) then .spill
      else (s.tenant owner).active.noUnit) →
    (∀ u n, (s.stream owner x).parkedUnit = some (u, n) → (s.unit u).state = .parked →
      s.device ≠ .holding ∨ (s.lane l).isBound = true →
      t.lane l = { s.lane l with
          current := some (u, n), state := if (s.lane l).state = .unitWait then .active else (s.lane l).state }
        ∧ t.unit u = { s.unit u with state := .opened }
        ∧ t.stream owner x = { s.stream owner x with parkedUnit := none } ∧ t.parked = s.parked - 1
        ∧ t.unitWait = s.unitWait.erase l ∧ t.pools = s.pools ∧ t.tenants = s.tenants)
    ∧ ((∀ u n, (s.stream owner x).parkedUnit = some (u, n) →
          (s.unit u).state ≠ .parked ∨ (s.device = .holding ∧ (s.lane l).isBound = false)) →
      (∀ g u rest, s.choosePool (s.tenant owner).active.poolMask policy = some g → s.pool g = u :: rest →
        (s.unit u).state = .free →
        t.lane l = { s.lane l with
            current := some (u, 0), state := if (s.lane l).state = .unitWait then .active else (s.lane l).state }
          ∧ t.unit u = { s.unit u with state := .opened, owner := some (owner, x) }
          ∧ t.pool g = rest ∧ (∀ k, k ≠ g → t.pool k = s.pool k)
          ∧ t.tenant owner = { s.tenant owner with owned := (s.tenant owner).owned + 1 }
          ∧ t.unitWait = s.unitWait.erase l ∧ t.streams = s.streams)
      ∧ (s.choosePool (s.tenant owner).active.poolMask policy = none → s.device ≠ .holding → (s.lane l).isBound = true →
        (t.lane l).state = .unitWait ∧ (t.lane l).current = (s.lane l).current
        ∧ t.unitWait = (if l ∈ s.unitWait then s.unitWait else s.unitWait ++ [l])
        ∧ (policy ≠ .refuse →
          t = { s.setLane l { s.lane l with state := .unitWait } with unitWait := t.unitWait })
        ∧ (policy = .refuse →
          (∀ h, (s.lane l).filling = some h →
            t.half l h = if (s.half l h).realCount = 0 then ⟨.empty, [], none, false, []⟩ else s.half l h)
          ∧ (∀ f ∈ t.intake, ¬(f.tenant = owner ∧ f.stream = x ∧ f.staged = 0))
          ∧ t.replies = s.replies ++
              (s.intake.filter (fun f => f.tenant = owner && f.stream = x && f.staged = 0)).map
                (fun f => ⟨f.tag, .noSpace, .write f.stream 0⟩)
          ∧ ∃ e, t.pendingOf owner .noSpace = some e ∧ e.detail = BitVec.ofNat 32 x)))

/-- SECTOR_OFFER of the last sector (R47): ACCEPTED with the stream and the count, the counters rise by the count, and the
slot is freed, whether or not the half fills. -/
def Obligations.LastSectorCompletesTheFrame : Prop :=
  ∀ (tenant : BitVec 10) (s : State) f l h, s.servesHead tenant.toNat = true →
    s.headOf tenant.toNat = some f → f.step = .staging → (s.stream tenant.toNat f.stream).binding = .bound l →
    (f.staged ≠ 0 ∨ s.refusesFirst tenant.toNat l = false) → (s.lane l).room = some h →
    f.staged + 1 = f.sectors.length →
    ∃ t : State, exec (.sectorOffer tenant) s = .next t
      ∧ ⟨f.tag, .accepted, .write f.stream f.sectors.length⟩ ∈ t.replies ∧ s.replies <+: t.replies
      ∧ t.intake.length + 1 ≤ s.intake.length
      ∧ (t.tenant tenant.toNat).counters.accepted =
          min ((s.tenant tenant.toNat).counters.accepted + f.sectors.length) 4294967295
      ∧ (t.stream tenant.toNat f.stream).accepted =
          min ((s.stream tenant.toNat f.stream).accepted + f.sectors.length) 4294967295
      ∧ t.device = .running ∧ t.settings = s.settings ∧ t.credit = s.credit ∧ t.flushes = s.flushes
      ∧ (∀ u, (t.unit u).valid = (s.unit u).valid ∧ (t.unit u).programmed = (s.unit u).programmed)

/-- SECTOR_OFFER that stages nothing. To a lane that refuses the first sector (R93), every frame of the stream with nothing staged
leaves with NO_SPACE in queue order, the counter rises by their number, their charges come back up to twice the allowance, and
NO_SPACE is posted with the stream (R53, R52). To a lane without room the head waits for a half; with the stream not bound it
goes back to the lane step, where it waits with a WAITING stream and asks for a lane for an UNBOUND one (R46, R45, R66). Where
no head stands at the staging step there is no offer (log 2). -/
def Obligations.OfferNotStaged : Prop :=
  ∀ (tenant : BitVec 10) (s : State),
    (∀ f l, s.servesHead tenant.toNat = true → s.headOf tenant.toNat = some f → f.step = .staging →
      (s.stream tenant.toNat f.stream).binding = .bound l → f.staged = 0 → s.refusesFirst tenant.toNat l = true →
      ∀ refused charged : List Frame,
      refused = s.intake.filter (fun g => g.tenant = tenant.toNat && g.stream = f.stream && g.staged = 0) →
      charged = refused.filter (fun g => g.settlement = .charged) →
      ∃ q : State, exec (.sectorOffer tenant) s = .next q.conclude ∧ WorkKeeps q q.conclude
        ∧ q.intake = s.intake.filter (fun g => !(g.tenant = tenant.toNat && g.stream = f.stream && g.staged = 0))
        ∧ q.replies = s.replies ++ refused.map (fun g => ⟨g.tag, .noSpace, .write g.stream 0⟩)
        ∧ q.tenant tenant.toNat =
            { s.tenant tenant.toNat with
              credit :=
                if (s.tenant tenant.toNat).active.allowance = 0 ∨ charged = [] then (s.tenant tenant.toNat).credit
                else min ((s.tenant tenant.toNat).credit + (charged.map (fun g => g.sectors.length)).sum)
                  (2 * (s.tenant tenant.toNat).active.allowance)
              counters := { (s.tenant tenant.toNat).counters with
                noSpace := min ((s.tenant tenant.toNat).counters.noSpace + refused.length) 4294967295 } }
        ∧ (∀ n, n ≠ tenant.toNat → q.tenant n = s.tenant n)
        ∧ q.pendingOf tenant.toNat .noSpace =
            (match s.pendingOf tenant.toNat .noSpace with
              | none => some ⟨.noSpace, 1, BitVec.ofNat 32 f.stream⟩
              | some e => some ⟨.noSpace, min (e.repeats + 1) 255, BitVec.ofNat 32 f.stream⟩)
        ∧ (∀ n k, n ≠ tenant.toNat ∨ k ≠ .noSpace → q.pendingOf n k = s.pendingOf n k)
        ∧ q = { s with
            intake := q.intake, replies := q.replies, tenants := q.tenants, notices := q.notices, attention := q.attention
            work := q.work })
    ∧ (∀ f l, s.isQuiet → s.servesHead tenant.toNat = true → s.headOf tenant.toNat = some f → f.step = .staging →
      (s.stream tenant.toNat f.stream).binding = .bound l → (f.staged ≠ 0 ∨ s.refusesFirst tenant.toNat l = false) →
      (s.lane l).room = none →
      exec (.sectorOffer tenant) s = .next (s.modHead tenant.toNat (fun g => { g with step := .half })))
    ∧ (∀ f (q : State), s.isQuiet → s.servesHead tenant.toNat = true → s.headOf tenant.toNat = some f → f.step = .staging →
      f.settlement ≠ .unsettled → q = s.modHead tenant.toNat (fun g => { g with step := .lane }) →
      ((s.stream tenant.toNat f.stream).binding = .waiting → exec (.sectorOffer tenant) s = .next q)
      ∧ ((s.stream tenant.toNat f.stream).binding = .unbound →
        ∃ t : State, exec (.sectorOffer tenant) s = .next t ∧ WorkKeeps (q.bindRequest tenant.toNat f.stream) t))
    ∧ (s.isQuiet → (s.servesHead tenant.toNat = false ∨ ∀ f, s.headOf tenant.toNat = some f → f.step ≠ .staging) →
      exec (.sectorOffer tenant) s = .next s)

/-! ## The HOLD input -/

/-- HOLD_ASSERTED (R177, R178): outside RUNNING the level alone is recorded; in RUNNING the part leaves RUNNING, every queued
frame is answered, HOLD_ABORT with nothing staged and HOLD_PARTIAL otherwise, the epoch timer stops, and a RUNNING scan is
abandoned with its working list, the nomination list kept (R148). -/
def Obligations.HoldAsserted : Prop :=
  ∀ s : State,
    (s.device ≠ .running → exec .holdAsserted s = .next { s with holdLevel := true })
    ∧ (s.device = .running →
      ∃ t : State, exec .holdAsserted s = .next t ∧ (t.device = .holding ∨ t.device = .held) ∧ t.intake = []
        ∧ t.epochTimer = none ∧ t.scan = none ∧ t.working = (if s.scan = none then s.working else [])
        ∧ t.nominations = s.nominations
        ∧ (∀ f ∈ s.intake,
            ⟨f.tag, if f.staged = 0 then .holdAbort else .holdPartial, .write f.stream f.staged⟩ ∈ t.replies)
        ∧ RecordsKept
            { s with holdLevel := true, device := .holding, lost := 0, epochTimer := none } t)

/-- HOLD_DEASSERTED (R177, R182): the level is recorded; in HELD with auto-resume on, the part runs again, with a full epoch
and, under CONTINUOUS, a scan. RESUME_FROM_HOLD does so on request, with the level deasserted (R182). -/
def Obligations.ReturnFromHold : Prop :=
  (∀ s : State,
    (¬(s.device = .held ∧ s.settings.autoResume = true) → exec .holdDeasserted s = .next { s with holdLevel := false })
    ∧ (s.device = .held → s.settings.autoResume = true →
      exec .holdDeasserted s =
        .next
          (if s.settings.trigger = .continuous ∧ s.scan = none then
            { s with
              holdLevel := false, device := .running, epochTimer := some s.settings.epochLength
              scan := some ⟨.all, 0⟩, working := [] }
          else
            { s with holdLevel := false, device := .running, epochTimer := some s.settings.epochLength })))
  ∧ (∀ tag (s : State), s.takesControl →
    (s.device ≠ .held → exec (.resumeFromHold tag) s = .next (s.noteRx.reply tag .wrongState))
    ∧ (s.device = .held → s.holdLevel = true → exec (.resumeFromHold tag) s = .next (s.noteRx.reply tag .busy))
    ∧ (s.device = .held → s.holdLevel = false →
      exec (.resumeFromHold tag) s =
        .next
          (if s.settings.trigger = .continuous ∧ s.scan = none then
            { s.noteRx with
              device := .running, epochTimer := some s.settings.epochLength, scan := some ⟨.all, 0⟩, working := []
              replies := s.replies ++ [⟨tag, .ok, .bare⟩] }
          else
            { s.noteRx with
              device := .running, epochTimer := some s.settings.epochLength
              replies := s.replies ++ [⟨tag, .ok, .bare⟩] })))

/-! ## Lists and counts -/

/-- The recency list, the two wait queues, the bound-lane, parked-unit and owned-unit counts, the pools and the floor sum stay
true to the records they speak of under every step (R25, R57, R60 to R62, R77, R86, R91, R94, R128). -/
def Obligations.ListsAndCountsKept : Prop :=
  ∀ s t : State, s.Canonical → s.Coherent → step s = .next t → t.Coherent

/-- Before START nothing is ordered, bound, parked or waiting (R13); streams, lanes and tenants name one another alike, and a
stream in the lane wait queue is WAITING (R38, R57, R62, R64, R173); frames are queued in RUNNING alone, each for an open
tenant (R41, R178); outside HOLDING no tenant has more bound lanes than its quota (R60); and no group has more orders in
flight than its limit (R102). Every step keeps this, beside the invariants before. -/
def Obligations.LinksKept : Prop :=
  ∀ s t : State, s.Canonical → s.InRange → s.Coherent → s.Linked → step s = .next t → t.Linked

/-- Halves, units, die queues and orders in flight agree with one another: what is assigned, queued and in flight (R57, R58,
R69 to R71, R100 to R104), a unit's stripes in rising order with its seal last (R78, R101), parked units (R77), the members of
the unit wait queue (R94), and a unit's programmed count, never above 4,096 (R124, R125). Every step keeps this, beside the
invariants before. -/
def Obligations.PlacingKept : Prop :=
  ∀ s t : State, s.Canonical → s.InRange → s.Coherent → s.Linked → s.Placed → step s = .next t → t.Placed
end

