-- ==== Sys2Proof/Laws/Table.lean ====
section
/-! SUPPORT. What reading and writing a row of a table do. -/

namespace Sys2Proof.Machine

variable {α : Type}

@[simp] theorem rowOf_nil (d : α) (n : Nat) : rowOf d [] n = d := rfl

theorem rowOf_cons (d : α) (k : Nat) (v : α) (rest : Table α) (n : Nat) :
    rowOf d ((k, v) :: rest) n = if k = n then v else rowOf d rest n := rfl

theorem rowOf_filter_same (d : α) (t : Table α) (n : Nat) :
    rowOf d (t.filter (fun row => row.1 ≠ n)) n = d := by
  induction t with
  | nil => rfl
  | cons row rest ih =>
    obtain ⟨k, v⟩ := row
    by_cases h : k = n <;> simp_all [rowOf_cons]

theorem rowOf_filter_other (d : α) (t : Table α) {n m : Nat} (hm : m ≠ n) :
    rowOf d (t.filter (fun row => row.1 ≠ n)) m = rowOf d t m := by
  induction t with
  | nil => rfl
  | cons row rest ih =>
    obtain ⟨k, v⟩ := row
    by_cases h : k = n
    · subst h
      simp_all [rowOf_cons, Ne.symm hm]
    · simp_all [rowOf_cons]

theorem rowOf_insertRow_other (d : α) (v : α) (t : Table α) {n m : Nat} (hm : m ≠ n) :
    rowOf d (insertRow n v t) m = rowOf d t m := by
  induction t with
  | nil => simp [insertRow, rowOf_cons, Ne.symm hm]
  | cons row rest ih =>
    obtain ⟨k, w⟩ := row
    by_cases h : n < k
    · simp only [insertRow, if_pos h, rowOf_cons, if_neg (Ne.symm hm)]
    · simp only [insertRow, if_neg h, rowOf_cons, ih]

theorem rowOf_insertRow_same (d : α) (v : α) (t : Table α) (n : Nat) (hn : ∀ row ∈ t, row.1 ≠ n) :
    rowOf d (insertRow n v t) n = v := by
  induction t with
  | nil => simp [insertRow, rowOf_cons]
  | cons row rest ih =>
    obtain ⟨k, w⟩ := row
    by_cases h : n < k
    · simp only [insertRow, if_pos h, rowOf_cons, if_true]
    · have hk : k ≠ n := hn (k, w) (by simp)
      simp only [insertRow, if_neg h, rowOf_cons, if_neg hk]
      exact ih (fun row hrow => hn row (by simp [hrow]))

/-- The row written is the row read back. -/
@[simp] theorem rowOf_putRow_same [DecidableEq α] (d : α) (t : Table α) (n : Nat) (v : α) :
    rowOf d (putRow d t n v) n = v := by
  unfold putRow
  by_cases h : v = d
  · subst h
    simp only [if_true]
    exact rowOf_filter_same _ t n
  · simp only [if_neg h]
    apply rowOf_insertRow_same
    intro row hrow
    simpa using (List.mem_filter.mp hrow).2

/-- Every other row reads as before. -/
theorem rowOf_putRow_other [DecidableEq α] (d : α) (t : Table α) {n m : Nat} (v : α) (hm : m ≠ n) :
    rowOf d (putRow d t n v) m = rowOf d t m := by
  unfold putRow
  by_cases h : v = d
  · simp only [if_pos h]
    exact rowOf_filter_other d t hm
  · simp only [if_neg h]
    rw [rowOf_insertRow_other d v _ hm]
    exact rowOf_filter_other d t hm

/-- Any row after a write. -/
theorem rowOf_putRow [DecidableEq α] (d : α) (t : Table α) (n m : Nat) (v : α) :
    rowOf d (putRow d t n v) m = if m = n then v else rowOf d t m := by
  by_cases h : m = n
  · subst h
    simp
  · simp [h, rowOf_putRow_other d t v h]

/-! ## The form of a table -/

theorem risingAbove_le {b b' : Nat} (h : b' ≤ b) {l : List Nat} (hl : risingAbove b l = true) :
    risingAbove b' l = true := by
  cases l with
  | nil => rfl
  | cons k rest =>
    simp only [risingAbove, Bool.and_eq_true, decide_eq_true_eq] at hl ⊢
    exact ⟨le_trans h hl.1, hl.2⟩

theorem risingAbove_filter (p : Nat → Bool) (l : List Nat) (b : Nat) (hl : risingAbove b l = true) :
    risingAbove b (l.filter p) = true := by
  induction l generalizing b with
  | nil => rfl
  | cons k rest ih =>
    simp only [risingAbove, Bool.and_eq_true, decide_eq_true_eq] at hl
    by_cases h : p k
    · simp only [List.filter_cons, h, if_true, risingAbove, Bool.and_eq_true, decide_eq_true_eq]
      exact ⟨hl.1, ih _ hl.2⟩
    · simp only [List.filter_cons, h]
      exact risingAbove_le (by omega) (ih _ hl.2)

theorem rowKeys_filter (t : Table α) (n : Nat) :
    rowKeys (t.filter (fun row => row.1 ≠ n)) = (rowKeys t).filter (fun k => k ≠ n) := by
  simp [rowKeys, List.filter_map, Function.comp_def]

theorem risingAbove_insertRow (n : Nat) (v : α) (t : Table α) (b : Nat) (hb : b ≤ n)
    (ht : risingAbove b (rowKeys t) = true) (hn : ∀ row ∈ t, row.1 ≠ n) :
    risingAbove b (rowKeys (insertRow n v t)) = true := by
  induction t generalizing b with
  | nil => simp [insertRow, rowKeys, risingAbove, hb]
  | cons row rest ih =>
    obtain ⟨k, w⟩ := row
    have hk : k ≠ n := hn (k, w) (by simp)
    simp only [rowKeys, List.map_cons, risingAbove, Bool.and_eq_true, decide_eq_true_eq] at ht
    by_cases h : n < k
    · simp only [insertRow, h, if_true, rowKeys, List.map_cons, risingAbove, Bool.and_eq_true, decide_eq_true_eq]
      exact ⟨hb, h, ht.2⟩
    · simp only [insertRow, h, if_false, rowKeys, List.map_cons, risingAbove, Bool.and_eq_true, decide_eq_true_eq]
      exact ⟨ht.1, ih (k + 1) (by omega) ht.2 (fun row hrow => hn row (by simp [hrow]))⟩

theorem mem_insertRow {n : Nat} {v : α} {t : Table α} {row : Nat × α} (h : row ∈ insertRow n v t) :
    row = (n, v) ∨ row ∈ t := by
  induction t with
  | nil => simpa [insertRow] using h
  | cons r rest ih =>
    obtain ⟨k, w⟩ := r
    by_cases hk : n < k
    · simpa [insertRow, hk] using h
    · simp only [insertRow, hk, if_false, List.mem_cons] at h
      rcases h with h | h
      · exact Or.inr (by simp [h])
      · rcases ih h with h | h
        · exact Or.inl h
        · exact Or.inr (by simp [h])

theorem tableWf_nil [DecidableEq α] (d : α) : tableWf d ([] : Table α) = true := rfl

/-- Writing a row keeps the form of a table. -/
theorem tableWf_putRow [DecidableEq α] (d : α) (t : Table α) (n : Nat) (v : α) (ht : tableWf d t = true) :
    tableWf d (putRow d t n v) = true := by
  simp only [tableWf, Bool.and_eq_true, List.all_eq_true, decide_eq_true_eq] at ht ⊢
  have hf : risingAbove 0 (rowKeys (t.filter (fun row => row.1 ≠ n))) = true := by
    rw [rowKeys_filter]
    exact risingAbove_filter _ _ _ ht.1
  have hne : ∀ row ∈ t.filter (fun row => row.1 ≠ n), row.2 ≠ d :=
    fun row hrow => ht.2 row (List.mem_filter.mp hrow).1
  unfold putRow
  by_cases h : v = d
  · simp only [if_pos h]
    exact ⟨hf, hne⟩
  · simp only [if_neg h]
    refine ⟨risingAbove_insertRow n v _ 0 (Nat.zero_le _) hf ?_, ?_⟩
    · intro row hrow
      simpa using (List.mem_filter.mp hrow).2
    · intro row hrow
      rcases mem_insertRow hrow with hr | hr
      · simpa [hr] using h
      · exact hne row hr

/-- A map over the records keeps the form when it makes no record the default. -/
theorem tableWf_map [DecidableEq α] (d : α) (t : Table α) (f : α → α) (hf : ∀ v, v ≠ d → f v ≠ d)
    (ht : tableWf d t = true) : tableWf d (t.map (fun row => (row.1, f row.2))) = true := by
  simp only [tableWf, Bool.and_eq_true, List.all_eq_true, decide_eq_true_eq] at ht ⊢
  refine ⟨?_, ?_⟩
  · simpa [rowKeys, Function.comp_def] using ht.1
  · intro row hrow
    obtain ⟨r, hr, rfl⟩ := List.mem_map.mp hrow
    exact hf _ (ht.2 r hr)

/-- A record under a map of a table, when the map keeps the default. -/
theorem rowOf_map (d : α) (t : Table α) (f : α → α) (hf : f d = d) (n : Nat) :
    rowOf d (t.map (fun row => (row.1, f row.2))) n = f (rowOf d t n) := by
  induction t with
  | nil => simp [hf]
  | cons row rest ih =>
    obtain ⟨k, v⟩ := row
    by_cases h : k = n <;> simp_all [rowOf_cons]

end Sys2Proof.Machine
end

