-- ==== Sys2Proof/Laws/State.lean ====
section
/-! SUPPORT. What each named update of the state does to each field of it, so that no proof unfolds an update. -/

namespace Sys2Proof.Machine

variable (s : State)

/-! ## setTenant -/

@[simp] theorem setTenant_device (t : Nat) (v : Tenant) : (s.setTenant t v).device = s.device := rfl
@[simp] theorem setTenant_settings (t : Nat) (v : Tenant) : (s.setTenant t v).settings = s.settings := rfl
@[simp] theorem setTenant_intake (t : Nat) (v : Tenant) : (s.setTenant t v).intake = s.intake := rfl
@[simp] theorem setTenant_flushes (t : Nat) (v : Tenant) : (s.setTenant t v).flushes = s.flushes := rfl
@[simp] theorem setTenant_replies (t : Nat) (v : Tenant) : (s.setTenant t v).replies = s.replies := rfl
@[simp] theorem setTenant_tx (t : Nat) (v : Tenant) : (s.setTenant t v).tx = s.tx := rfl
@[simp] theorem setTenant_receiving (t : Nat) (v : Tenant) : (s.setTenant t v).receiving = s.receiving := rfl
@[simp] theorem setTenant_resyncArmed (t : Nat) (v : Tenant) : (s.setTenant t v).resyncArmed = s.resyncArmed := rfl
@[simp] theorem setTenant_resetWait (t : Nat) (v : Tenant) : (s.setTenant t v).resetWait = s.resetWait := rfl
@[simp] theorem setTenant_credit (t : Nat) (v : Tenant) : (s.setTenant t v).credit = s.credit := rfl
@[simp] theorem setTenant_preference (t : Nat) (v : Tenant) : (s.setTenant t v).preference = s.preference := rfl
@[simp] theorem setTenant_placement (t : Nat) (v : Tenant) : (s.setTenant t v).placement = s.placement := rfl
@[simp] theorem setTenant_notices (t : Nat) (v : Tenant) : (s.setTenant t v).notices = s.notices := rfl
@[simp] theorem setTenant_attention (t : Nat) (v : Tenant) : (s.setTenant t v).attention = s.attention := rfl
@[simp] theorem setTenant_counters (t : Nat) (v : Tenant) : (s.setTenant t v).counters = s.counters := rfl
@[simp] theorem setTenant_mdlRst (t : Nat) (v : Tenant) : (s.setTenant t v).mdlRst = s.mdlRst := rfl
@[simp] theorem setTenant_streams (t : Nat) (v : Tenant) : (s.setTenant t v).streams = s.streams := rfl
@[simp] theorem setTenant_lanes (t : Nat) (v : Tenant) : (s.setTenant t v).lanes = s.lanes := rfl
@[simp] theorem setTenant_recency (t : Nat) (v : Tenant) : (s.setTenant t v).recency = s.recency := rfl
@[simp] theorem setTenant_laneWait (t : Nat) (v : Tenant) : (s.setTenant t v).laneWait = s.laneWait := rfl
@[simp] theorem setTenant_parked (t : Nat) (v : Tenant) : (s.setTenant t v).parked = s.parked := rfl
@[simp] theorem setTenant_pools (t : Nat) (v : Tenant) : (s.setTenant t v).pools = s.pools := rfl
@[simp] theorem setTenant_unitWait (t : Nat) (v : Tenant) : (s.setTenant t v).unitWait = s.unitWait := rfl
@[simp] theorem setTenant_dies (t : Nat) (v : Tenant) : (s.setTenant t v).dies = s.dies := rfl
@[simp] theorem setTenant_groupPos (t : Nat) (v : Tenant) : (s.setTenant t v).groupPos = s.groupPos := rfl
@[simp] theorem setTenant_groupPtr (t : Nat) (v : Tenant) : (s.setTenant t v).groupPtr = s.groupPtr := rfl
@[simp] theorem setTenant_ordersSent (t : Nat) (v : Tenant) : (s.setTenant t v).ordersSent = s.ordersSent := rfl
@[simp] theorem setTenant_units (t : Nat) (v : Tenant) : (s.setTenant t v).units = s.units := rfl
@[simp] theorem setTenant_scan (t : Nat) (v : Tenant) : (s.setTenant t v).scan = s.scan := rfl
@[simp] theorem setTenant_working (t : Nat) (v : Tenant) : (s.setTenant t v).working = s.working := rfl
@[simp] theorem setTenant_nominations (t : Nat) (v : Tenant) : (s.setTenant t v).nominations = s.nominations := rfl
@[simp] theorem setTenant_epoch (t : Nat) (v : Tenant) : (s.setTenant t v).epoch = s.epoch := rfl
@[simp] theorem setTenant_epochTimer (t : Nat) (v : Tenant) : (s.setTenant t v).epochTimer = s.epochTimer := rfl
@[simp] theorem setTenant_scanCount (t : Nat) (v : Tenant) : (s.setTenant t v).scanCount = s.scanCount := rfl
@[simp] theorem setTenant_policyHold (t : Nat) (v : Tenant) : (s.setTenant t v).policyHold = s.policyHold := rfl
@[simp] theorem setTenant_lost (t : Nat) (v : Tenant) : (s.setTenant t v).lost = s.lost := rfl
@[simp] theorem setTenant_holdLevel (t : Nat) (v : Tenant) : (s.setTenant t v).holdLevel = s.holdLevel := rfl
@[simp] theorem setTenant_work (t : Nat) (v : Tenant) : (s.setTenant t v).work = s.work := rfl
@[simp] theorem setTenant_pending (t : Nat) (v : Tenant) : (s.setTenant t v).pending = s.pending := rfl
theorem setTenant_tenants (t : Nat) (v : Tenant) : (s.setTenant t v).tenants = putRow Tenant.reset s.tenants t v := rfl
@[simp] theorem setTenant_stream (t : Nat) (v : Tenant) (n x' : Nat) : (s.setTenant t v).stream n x' = s.stream n x' := rfl
@[simp] theorem setTenant_lane (t : Nat) (v : Tenant) (n : Nat) : (s.setTenant t v).lane n = s.lane n := rfl
@[simp] theorem setTenant_unit (t : Nat) (v : Tenant) (n : Nat) : (s.setTenant t v).unit n = s.unit n := rfl
@[simp] theorem setTenant_die (t : Nat) (v : Tenant) (n : Nat) : (s.setTenant t v).die n = s.die n := rfl
@[simp] theorem setTenant_pool (t : Nat) (v : Tenant) (n : Nat) : (s.setTenant t v).pool n = s.pool n := rfl
@[simp] theorem setTenant_pendingSet (t : Nat) (v : Tenant) (n : Nat) : (s.setTenant t v).pendingSet n = s.pendingSet n := rfl

/-! ## setStream -/

@[simp] theorem setStream_device (t x : Nat) (v : StreamCtx) : (s.setStream t x v).device = s.device := rfl
@[simp] theorem setStream_settings (t x : Nat) (v : StreamCtx) : (s.setStream t x v).settings = s.settings := rfl
@[simp] theorem setStream_intake (t x : Nat) (v : StreamCtx) : (s.setStream t x v).intake = s.intake := rfl
@[simp] theorem setStream_flushes (t x : Nat) (v : StreamCtx) : (s.setStream t x v).flushes = s.flushes := rfl
@[simp] theorem setStream_replies (t x : Nat) (v : StreamCtx) : (s.setStream t x v).replies = s.replies := rfl
@[simp] theorem setStream_tx (t x : Nat) (v : StreamCtx) : (s.setStream t x v).tx = s.tx := rfl
@[simp] theorem setStream_receiving (t x : Nat) (v : StreamCtx) : (s.setStream t x v).receiving = s.receiving := rfl
@[simp] theorem setStream_resyncArmed (t x : Nat) (v : StreamCtx) : (s.setStream t x v).resyncArmed = s.resyncArmed := rfl
@[simp] theorem setStream_resetWait (t x : Nat) (v : StreamCtx) : (s.setStream t x v).resetWait = s.resetWait := rfl
@[simp] theorem setStream_credit (t x : Nat) (v : StreamCtx) : (s.setStream t x v).credit = s.credit := rfl
@[simp] theorem setStream_preference (t x : Nat) (v : StreamCtx) : (s.setStream t x v).preference = s.preference := rfl
@[simp] theorem setStream_placement (t x : Nat) (v : StreamCtx) : (s.setStream t x v).placement = s.placement := rfl
@[simp] theorem setStream_notices (t x : Nat) (v : StreamCtx) : (s.setStream t x v).notices = s.notices := rfl
@[simp] theorem setStream_attention (t x : Nat) (v : StreamCtx) : (s.setStream t x v).attention = s.attention := rfl
@[simp] theorem setStream_counters (t x : Nat) (v : StreamCtx) : (s.setStream t x v).counters = s.counters := rfl
@[simp] theorem setStream_mdlRst (t x : Nat) (v : StreamCtx) : (s.setStream t x v).mdlRst = s.mdlRst := rfl
@[simp] theorem setStream_tenants (t x : Nat) (v : StreamCtx) : (s.setStream t x v).tenants = s.tenants := rfl
@[simp] theorem setStream_lanes (t x : Nat) (v : StreamCtx) : (s.setStream t x v).lanes = s.lanes := rfl
@[simp] theorem setStream_recency (t x : Nat) (v : StreamCtx) : (s.setStream t x v).recency = s.recency := rfl
@[simp] theorem setStream_laneWait (t x : Nat) (v : StreamCtx) : (s.setStream t x v).laneWait = s.laneWait := rfl
@[simp] theorem setStream_parked (t x : Nat) (v : StreamCtx) : (s.setStream t x v).parked = s.parked := rfl
@[simp] theorem setStream_pools (t x : Nat) (v : StreamCtx) : (s.setStream t x v).pools = s.pools := rfl
@[simp] theorem setStream_unitWait (t x : Nat) (v : StreamCtx) : (s.setStream t x v).unitWait = s.unitWait := rfl
@[simp] theorem setStream_dies (t x : Nat) (v : StreamCtx) : (s.setStream t x v).dies = s.dies := rfl
@[simp] theorem setStream_groupPos (t x : Nat) (v : StreamCtx) : (s.setStream t x v).groupPos = s.groupPos := rfl
@[simp] theorem setStream_groupPtr (t x : Nat) (v : StreamCtx) : (s.setStream t x v).groupPtr = s.groupPtr := rfl
@[simp] theorem setStream_ordersSent (t x : Nat) (v : StreamCtx) : (s.setStream t x v).ordersSent = s.ordersSent := rfl
@[simp] theorem setStream_units (t x : Nat) (v : StreamCtx) : (s.setStream t x v).units = s.units := rfl
@[simp] theorem setStream_scan (t x : Nat) (v : StreamCtx) : (s.setStream t x v).scan = s.scan := rfl
@[simp] theorem setStream_working (t x : Nat) (v : StreamCtx) : (s.setStream t x v).working = s.working := rfl
@[simp] theorem setStream_nominations (t x : Nat) (v : StreamCtx) : (s.setStream t x v).nominations = s.nominations := rfl
@[simp] theorem setStream_epoch (t x : Nat) (v : StreamCtx) : (s.setStream t x v).epoch = s.epoch := rfl
@[simp] theorem setStream_epochTimer (t x : Nat) (v : StreamCtx) : (s.setStream t x v).epochTimer = s.epochTimer := rfl
@[simp] theorem setStream_scanCount (t x : Nat) (v : StreamCtx) : (s.setStream t x v).scanCount = s.scanCount := rfl
@[simp] theorem setStream_policyHold (t x : Nat) (v : StreamCtx) : (s.setStream t x v).policyHold = s.policyHold := rfl
@[simp] theorem setStream_lost (t x : Nat) (v : StreamCtx) : (s.setStream t x v).lost = s.lost := rfl
@[simp] theorem setStream_holdLevel (t x : Nat) (v : StreamCtx) : (s.setStream t x v).holdLevel = s.holdLevel := rfl
@[simp] theorem setStream_work (t x : Nat) (v : StreamCtx) : (s.setStream t x v).work = s.work := rfl
@[simp] theorem setStream_pending (t x : Nat) (v : StreamCtx) : (s.setStream t x v).pending = s.pending := rfl
theorem setStream_streams (t x : Nat) (v : StreamCtx) : (s.setStream t x v).streams = putRow StreamCtx.reset s.streams (streamKey t x) v := rfl
@[simp] theorem setStream_tenant (t x : Nat) (v : StreamCtx) (n : Nat) : (s.setStream t x v).tenant n = s.tenant n := rfl
@[simp] theorem setStream_lane (t x : Nat) (v : StreamCtx) (n : Nat) : (s.setStream t x v).lane n = s.lane n := rfl
@[simp] theorem setStream_unit (t x : Nat) (v : StreamCtx) (n : Nat) : (s.setStream t x v).unit n = s.unit n := rfl
@[simp] theorem setStream_die (t x : Nat) (v : StreamCtx) (n : Nat) : (s.setStream t x v).die n = s.die n := rfl
@[simp] theorem setStream_pool (t x : Nat) (v : StreamCtx) (n : Nat) : (s.setStream t x v).pool n = s.pool n := rfl
@[simp] theorem setStream_pendingSet (t x : Nat) (v : StreamCtx) (n : Nat) : (s.setStream t x v).pendingSet n = s.pendingSet n := rfl

/-! ## setLane -/

@[simp] theorem setLane_device (l : Nat) (v : Lane) : (s.setLane l v).device = s.device := rfl
@[simp] theorem setLane_settings (l : Nat) (v : Lane) : (s.setLane l v).settings = s.settings := rfl
@[simp] theorem setLane_intake (l : Nat) (v : Lane) : (s.setLane l v).intake = s.intake := rfl
@[simp] theorem setLane_flushes (l : Nat) (v : Lane) : (s.setLane l v).flushes = s.flushes := rfl
@[simp] theorem setLane_replies (l : Nat) (v : Lane) : (s.setLane l v).replies = s.replies := rfl
@[simp] theorem setLane_tx (l : Nat) (v : Lane) : (s.setLane l v).tx = s.tx := rfl
@[simp] theorem setLane_receiving (l : Nat) (v : Lane) : (s.setLane l v).receiving = s.receiving := rfl
@[simp] theorem setLane_resyncArmed (l : Nat) (v : Lane) : (s.setLane l v).resyncArmed = s.resyncArmed := rfl
@[simp] theorem setLane_resetWait (l : Nat) (v : Lane) : (s.setLane l v).resetWait = s.resetWait := rfl
@[simp] theorem setLane_credit (l : Nat) (v : Lane) : (s.setLane l v).credit = s.credit := rfl
@[simp] theorem setLane_preference (l : Nat) (v : Lane) : (s.setLane l v).preference = s.preference := rfl
@[simp] theorem setLane_placement (l : Nat) (v : Lane) : (s.setLane l v).placement = s.placement := rfl
@[simp] theorem setLane_notices (l : Nat) (v : Lane) : (s.setLane l v).notices = s.notices := rfl
@[simp] theorem setLane_attention (l : Nat) (v : Lane) : (s.setLane l v).attention = s.attention := rfl
@[simp] theorem setLane_counters (l : Nat) (v : Lane) : (s.setLane l v).counters = s.counters := rfl
@[simp] theorem setLane_mdlRst (l : Nat) (v : Lane) : (s.setLane l v).mdlRst = s.mdlRst := rfl
@[simp] theorem setLane_tenants (l : Nat) (v : Lane) : (s.setLane l v).tenants = s.tenants := rfl
@[simp] theorem setLane_streams (l : Nat) (v : Lane) : (s.setLane l v).streams = s.streams := rfl
@[simp] theorem setLane_recency (l : Nat) (v : Lane) : (s.setLane l v).recency = s.recency := rfl
@[simp] theorem setLane_laneWait (l : Nat) (v : Lane) : (s.setLane l v).laneWait = s.laneWait := rfl
@[simp] theorem setLane_parked (l : Nat) (v : Lane) : (s.setLane l v).parked = s.parked := rfl
@[simp] theorem setLane_pools (l : Nat) (v : Lane) : (s.setLane l v).pools = s.pools := rfl
@[simp] theorem setLane_unitWait (l : Nat) (v : Lane) : (s.setLane l v).unitWait = s.unitWait := rfl
@[simp] theorem setLane_dies (l : Nat) (v : Lane) : (s.setLane l v).dies = s.dies := rfl
@[simp] theorem setLane_groupPos (l : Nat) (v : Lane) : (s.setLane l v).groupPos = s.groupPos := rfl
@[simp] theorem setLane_groupPtr (l : Nat) (v : Lane) : (s.setLane l v).groupPtr = s.groupPtr := rfl
@[simp] theorem setLane_ordersSent (l : Nat) (v : Lane) : (s.setLane l v).ordersSent = s.ordersSent := rfl
@[simp] theorem setLane_units (l : Nat) (v : Lane) : (s.setLane l v).units = s.units := rfl
@[simp] theorem setLane_scan (l : Nat) (v : Lane) : (s.setLane l v).scan = s.scan := rfl
@[simp] theorem setLane_working (l : Nat) (v : Lane) : (s.setLane l v).working = s.working := rfl
@[simp] theorem setLane_nominations (l : Nat) (v : Lane) : (s.setLane l v).nominations = s.nominations := rfl
@[simp] theorem setLane_epoch (l : Nat) (v : Lane) : (s.setLane l v).epoch = s.epoch := rfl
@[simp] theorem setLane_epochTimer (l : Nat) (v : Lane) : (s.setLane l v).epochTimer = s.epochTimer := rfl
@[simp] theorem setLane_scanCount (l : Nat) (v : Lane) : (s.setLane l v).scanCount = s.scanCount := rfl
@[simp] theorem setLane_policyHold (l : Nat) (v : Lane) : (s.setLane l v).policyHold = s.policyHold := rfl
@[simp] theorem setLane_lost (l : Nat) (v : Lane) : (s.setLane l v).lost = s.lost := rfl
@[simp] theorem setLane_holdLevel (l : Nat) (v : Lane) : (s.setLane l v).holdLevel = s.holdLevel := rfl
@[simp] theorem setLane_work (l : Nat) (v : Lane) : (s.setLane l v).work = s.work := rfl
@[simp] theorem setLane_pending (l : Nat) (v : Lane) : (s.setLane l v).pending = s.pending := rfl
theorem setLane_lanes (l : Nat) (v : Lane) : (s.setLane l v).lanes = putRow Lane.reset s.lanes l v := rfl
@[simp] theorem setLane_tenant (l : Nat) (v : Lane) (n : Nat) : (s.setLane l v).tenant n = s.tenant n := rfl
@[simp] theorem setLane_stream (l : Nat) (v : Lane) (n x' : Nat) : (s.setLane l v).stream n x' = s.stream n x' := rfl
@[simp] theorem setLane_unit (l : Nat) (v : Lane) (n : Nat) : (s.setLane l v).unit n = s.unit n := rfl
@[simp] theorem setLane_die (l : Nat) (v : Lane) (n : Nat) : (s.setLane l v).die n = s.die n := rfl
@[simp] theorem setLane_pool (l : Nat) (v : Lane) (n : Nat) : (s.setLane l v).pool n = s.pool n := rfl
@[simp] theorem setLane_pendingSet (l : Nat) (v : Lane) (n : Nat) : (s.setLane l v).pendingSet n = s.pendingSet n := rfl

/-! ## setUnit -/

@[simp] theorem setUnit_device (u : Nat) (v : UnitRec) : (s.setUnit u v).device = s.device := rfl
@[simp] theorem setUnit_settings (u : Nat) (v : UnitRec) : (s.setUnit u v).settings = s.settings := rfl
@[simp] theorem setUnit_intake (u : Nat) (v : UnitRec) : (s.setUnit u v).intake = s.intake := rfl
@[simp] theorem setUnit_flushes (u : Nat) (v : UnitRec) : (s.setUnit u v).flushes = s.flushes := rfl
@[simp] theorem setUnit_replies (u : Nat) (v : UnitRec) : (s.setUnit u v).replies = s.replies := rfl
@[simp] theorem setUnit_tx (u : Nat) (v : UnitRec) : (s.setUnit u v).tx = s.tx := rfl
@[simp] theorem setUnit_receiving (u : Nat) (v : UnitRec) : (s.setUnit u v).receiving = s.receiving := rfl
@[simp] theorem setUnit_resyncArmed (u : Nat) (v : UnitRec) : (s.setUnit u v).resyncArmed = s.resyncArmed := rfl
@[simp] theorem setUnit_resetWait (u : Nat) (v : UnitRec) : (s.setUnit u v).resetWait = s.resetWait := rfl
@[simp] theorem setUnit_credit (u : Nat) (v : UnitRec) : (s.setUnit u v).credit = s.credit := rfl
@[simp] theorem setUnit_preference (u : Nat) (v : UnitRec) : (s.setUnit u v).preference = s.preference := rfl
@[simp] theorem setUnit_placement (u : Nat) (v : UnitRec) : (s.setUnit u v).placement = s.placement := rfl
@[simp] theorem setUnit_notices (u : Nat) (v : UnitRec) : (s.setUnit u v).notices = s.notices := rfl
@[simp] theorem setUnit_attention (u : Nat) (v : UnitRec) : (s.setUnit u v).attention = s.attention := rfl
@[simp] theorem setUnit_counters (u : Nat) (v : UnitRec) : (s.setUnit u v).counters = s.counters := rfl
@[simp] theorem setUnit_mdlRst (u : Nat) (v : UnitRec) : (s.setUnit u v).mdlRst = s.mdlRst := rfl
@[simp] theorem setUnit_tenants (u : Nat) (v : UnitRec) : (s.setUnit u v).tenants = s.tenants := rfl
@[simp] theorem setUnit_streams (u : Nat) (v : UnitRec) : (s.setUnit u v).streams = s.streams := rfl
@[simp] theorem setUnit_lanes (u : Nat) (v : UnitRec) : (s.setUnit u v).lanes = s.lanes := rfl
@[simp] theorem setUnit_recency (u : Nat) (v : UnitRec) : (s.setUnit u v).recency = s.recency := rfl
@[simp] theorem setUnit_laneWait (u : Nat) (v : UnitRec) : (s.setUnit u v).laneWait = s.laneWait := rfl
@[simp] theorem setUnit_parked (u : Nat) (v : UnitRec) : (s.setUnit u v).parked = s.parked := rfl
@[simp] theorem setUnit_pools (u : Nat) (v : UnitRec) : (s.setUnit u v).pools = s.pools := rfl
@[simp] theorem setUnit_unitWait (u : Nat) (v : UnitRec) : (s.setUnit u v).unitWait = s.unitWait := rfl
@[simp] theorem setUnit_dies (u : Nat) (v : UnitRec) : (s.setUnit u v).dies = s.dies := rfl
@[simp] theorem setUnit_groupPos (u : Nat) (v : UnitRec) : (s.setUnit u v).groupPos = s.groupPos := rfl
@[simp] theorem setUnit_groupPtr (u : Nat) (v : UnitRec) : (s.setUnit u v).groupPtr = s.groupPtr := rfl
@[simp] theorem setUnit_ordersSent (u : Nat) (v : UnitRec) : (s.setUnit u v).ordersSent = s.ordersSent := rfl
@[simp] theorem setUnit_scan (u : Nat) (v : UnitRec) : (s.setUnit u v).scan = s.scan := rfl
@[simp] theorem setUnit_working (u : Nat) (v : UnitRec) : (s.setUnit u v).working = s.working := rfl
@[simp] theorem setUnit_nominations (u : Nat) (v : UnitRec) : (s.setUnit u v).nominations = s.nominations := rfl
@[simp] theorem setUnit_epoch (u : Nat) (v : UnitRec) : (s.setUnit u v).epoch = s.epoch := rfl
@[simp] theorem setUnit_epochTimer (u : Nat) (v : UnitRec) : (s.setUnit u v).epochTimer = s.epochTimer := rfl
@[simp] theorem setUnit_scanCount (u : Nat) (v : UnitRec) : (s.setUnit u v).scanCount = s.scanCount := rfl
@[simp] theorem setUnit_policyHold (u : Nat) (v : UnitRec) : (s.setUnit u v).policyHold = s.policyHold := rfl
@[simp] theorem setUnit_lost (u : Nat) (v : UnitRec) : (s.setUnit u v).lost = s.lost := rfl
@[simp] theorem setUnit_holdLevel (u : Nat) (v : UnitRec) : (s.setUnit u v).holdLevel = s.holdLevel := rfl
@[simp] theorem setUnit_work (u : Nat) (v : UnitRec) : (s.setUnit u v).work = s.work := rfl
@[simp] theorem setUnit_pending (u : Nat) (v : UnitRec) : (s.setUnit u v).pending = s.pending := rfl
theorem setUnit_units (u : Nat) (v : UnitRec) : (s.setUnit u v).units = putRow UnitRec.reset s.units u v := rfl
@[simp] theorem setUnit_tenant (u : Nat) (v : UnitRec) (n : Nat) : (s.setUnit u v).tenant n = s.tenant n := rfl
@[simp] theorem setUnit_stream (u : Nat) (v : UnitRec) (n x' : Nat) : (s.setUnit u v).stream n x' = s.stream n x' := rfl
@[simp] theorem setUnit_lane (u : Nat) (v : UnitRec) (n : Nat) : (s.setUnit u v).lane n = s.lane n := rfl
@[simp] theorem setUnit_die (u : Nat) (v : UnitRec) (n : Nat) : (s.setUnit u v).die n = s.die n := rfl
@[simp] theorem setUnit_pool (u : Nat) (v : UnitRec) (n : Nat) : (s.setUnit u v).pool n = s.pool n := rfl
@[simp] theorem setUnit_pendingSet (u : Nat) (v : UnitRec) (n : Nat) : (s.setUnit u v).pendingSet n = s.pendingSet n := rfl

/-! ## setDie -/

@[simp] theorem setDie_device (d : Nat) (v : Die) : (s.setDie d v).device = s.device := rfl
@[simp] theorem setDie_settings (d : Nat) (v : Die) : (s.setDie d v).settings = s.settings := rfl
@[simp] theorem setDie_intake (d : Nat) (v : Die) : (s.setDie d v).intake = s.intake := rfl
@[simp] theorem setDie_flushes (d : Nat) (v : Die) : (s.setDie d v).flushes = s.flushes := rfl
@[simp] theorem setDie_replies (d : Nat) (v : Die) : (s.setDie d v).replies = s.replies := rfl
@[simp] theorem setDie_tx (d : Nat) (v : Die) : (s.setDie d v).tx = s.tx := rfl
@[simp] theorem setDie_receiving (d : Nat) (v : Die) : (s.setDie d v).receiving = s.receiving := rfl
@[simp] theorem setDie_resyncArmed (d : Nat) (v : Die) : (s.setDie d v).resyncArmed = s.resyncArmed := rfl
@[simp] theorem setDie_resetWait (d : Nat) (v : Die) : (s.setDie d v).resetWait = s.resetWait := rfl
@[simp] theorem setDie_credit (d : Nat) (v : Die) : (s.setDie d v).credit = s.credit := rfl
@[simp] theorem setDie_preference (d : Nat) (v : Die) : (s.setDie d v).preference = s.preference := rfl
@[simp] theorem setDie_placement (d : Nat) (v : Die) : (s.setDie d v).placement = s.placement := rfl
@[simp] theorem setDie_notices (d : Nat) (v : Die) : (s.setDie d v).notices = s.notices := rfl
@[simp] theorem setDie_attention (d : Nat) (v : Die) : (s.setDie d v).attention = s.attention := rfl
@[simp] theorem setDie_counters (d : Nat) (v : Die) : (s.setDie d v).counters = s.counters := rfl
@[simp] theorem setDie_mdlRst (d : Nat) (v : Die) : (s.setDie d v).mdlRst = s.mdlRst := rfl
@[simp] theorem setDie_tenants (d : Nat) (v : Die) : (s.setDie d v).tenants = s.tenants := rfl
@[simp] theorem setDie_streams (d : Nat) (v : Die) : (s.setDie d v).streams = s.streams := rfl
@[simp] theorem setDie_lanes (d : Nat) (v : Die) : (s.setDie d v).lanes = s.lanes := rfl
@[simp] theorem setDie_recency (d : Nat) (v : Die) : (s.setDie d v).recency = s.recency := rfl
@[simp] theorem setDie_laneWait (d : Nat) (v : Die) : (s.setDie d v).laneWait = s.laneWait := rfl
@[simp] theorem setDie_parked (d : Nat) (v : Die) : (s.setDie d v).parked = s.parked := rfl
@[simp] theorem setDie_pools (d : Nat) (v : Die) : (s.setDie d v).pools = s.pools := rfl
@[simp] theorem setDie_unitWait (d : Nat) (v : Die) : (s.setDie d v).unitWait = s.unitWait := rfl
@[simp] theorem setDie_groupPos (d : Nat) (v : Die) : (s.setDie d v).groupPos = s.groupPos := rfl
@[simp] theorem setDie_groupPtr (d : Nat) (v : Die) : (s.setDie d v).groupPtr = s.groupPtr := rfl
@[simp] theorem setDie_ordersSent (d : Nat) (v : Die) : (s.setDie d v).ordersSent = s.ordersSent := rfl
@[simp] theorem setDie_units (d : Nat) (v : Die) : (s.setDie d v).units = s.units := rfl
@[simp] theorem setDie_scan (d : Nat) (v : Die) : (s.setDie d v).scan = s.scan := rfl
@[simp] theorem setDie_working (d : Nat) (v : Die) : (s.setDie d v).working = s.working := rfl
@[simp] theorem setDie_nominations (d : Nat) (v : Die) : (s.setDie d v).nominations = s.nominations := rfl
@[simp] theorem setDie_epoch (d : Nat) (v : Die) : (s.setDie d v).epoch = s.epoch := rfl
@[simp] theorem setDie_epochTimer (d : Nat) (v : Die) : (s.setDie d v).epochTimer = s.epochTimer := rfl
@[simp] theorem setDie_scanCount (d : Nat) (v : Die) : (s.setDie d v).scanCount = s.scanCount := rfl
@[simp] theorem setDie_policyHold (d : Nat) (v : Die) : (s.setDie d v).policyHold = s.policyHold := rfl
@[simp] theorem setDie_lost (d : Nat) (v : Die) : (s.setDie d v).lost = s.lost := rfl
@[simp] theorem setDie_holdLevel (d : Nat) (v : Die) : (s.setDie d v).holdLevel = s.holdLevel := rfl
@[simp] theorem setDie_work (d : Nat) (v : Die) : (s.setDie d v).work = s.work := rfl
@[simp] theorem setDie_pending (d : Nat) (v : Die) : (s.setDie d v).pending = s.pending := rfl
theorem setDie_dies (d : Nat) (v : Die) : (s.setDie d v).dies = putRow Die.reset s.dies d v := rfl
@[simp] theorem setDie_tenant (d : Nat) (v : Die) (n : Nat) : (s.setDie d v).tenant n = s.tenant n := rfl
@[simp] theorem setDie_stream (d : Nat) (v : Die) (n x' : Nat) : (s.setDie d v).stream n x' = s.stream n x' := rfl
@[simp] theorem setDie_lane (d : Nat) (v : Die) (n : Nat) : (s.setDie d v).lane n = s.lane n := rfl
@[simp] theorem setDie_unit (d : Nat) (v : Die) (n : Nat) : (s.setDie d v).unit n = s.unit n := rfl
@[simp] theorem setDie_pool (d : Nat) (v : Die) (n : Nat) : (s.setDie d v).pool n = s.pool n := rfl
@[simp] theorem setDie_pendingSet (d : Nat) (v : Die) (n : Nat) : (s.setDie d v).pendingSet n = s.pendingSet n := rfl

/-! ## setPool -/

@[simp] theorem setPool_device (g : Nat) (v : List Nat) : (s.setPool g v).device = s.device := rfl
@[simp] theorem setPool_settings (g : Nat) (v : List Nat) : (s.setPool g v).settings = s.settings := rfl
@[simp] theorem setPool_intake (g : Nat) (v : List Nat) : (s.setPool g v).intake = s.intake := rfl
@[simp] theorem setPool_flushes (g : Nat) (v : List Nat) : (s.setPool g v).flushes = s.flushes := rfl
@[simp] theorem setPool_replies (g : Nat) (v : List Nat) : (s.setPool g v).replies = s.replies := rfl
@[simp] theorem setPool_tx (g : Nat) (v : List Nat) : (s.setPool g v).tx = s.tx := rfl
@[simp] theorem setPool_receiving (g : Nat) (v : List Nat) : (s.setPool g v).receiving = s.receiving := rfl
@[simp] theorem setPool_resyncArmed (g : Nat) (v : List Nat) : (s.setPool g v).resyncArmed = s.resyncArmed := rfl
@[simp] theorem setPool_resetWait (g : Nat) (v : List Nat) : (s.setPool g v).resetWait = s.resetWait := rfl
@[simp] theorem setPool_credit (g : Nat) (v : List Nat) : (s.setPool g v).credit = s.credit := rfl
@[simp] theorem setPool_preference (g : Nat) (v : List Nat) : (s.setPool g v).preference = s.preference := rfl
@[simp] theorem setPool_placement (g : Nat) (v : List Nat) : (s.setPool g v).placement = s.placement := rfl
@[simp] theorem setPool_notices (g : Nat) (v : List Nat) : (s.setPool g v).notices = s.notices := rfl
@[simp] theorem setPool_attention (g : Nat) (v : List Nat) : (s.setPool g v).attention = s.attention := rfl
@[simp] theorem setPool_counters (g : Nat) (v : List Nat) : (s.setPool g v).counters = s.counters := rfl
@[simp] theorem setPool_mdlRst (g : Nat) (v : List Nat) : (s.setPool g v).mdlRst = s.mdlRst := rfl
@[simp] theorem setPool_tenants (g : Nat) (v : List Nat) : (s.setPool g v).tenants = s.tenants := rfl
@[simp] theorem setPool_streams (g : Nat) (v : List Nat) : (s.setPool g v).streams = s.streams := rfl
@[simp] theorem setPool_lanes (g : Nat) (v : List Nat) : (s.setPool g v).lanes = s.lanes := rfl
@[simp] theorem setPool_recency (g : Nat) (v : List Nat) : (s.setPool g v).recency = s.recency := rfl
@[simp] theorem setPool_laneWait (g : Nat) (v : List Nat) : (s.setPool g v).laneWait = s.laneWait := rfl
@[simp] theorem setPool_parked (g : Nat) (v : List Nat) : (s.setPool g v).parked = s.parked := rfl
@[simp] theorem setPool_unitWait (g : Nat) (v : List Nat) : (s.setPool g v).unitWait = s.unitWait := rfl
@[simp] theorem setPool_dies (g : Nat) (v : List Nat) : (s.setPool g v).dies = s.dies := rfl
@[simp] theorem setPool_groupPos (g : Nat) (v : List Nat) : (s.setPool g v).groupPos = s.groupPos := rfl
@[simp] theorem setPool_groupPtr (g : Nat) (v : List Nat) : (s.setPool g v).groupPtr = s.groupPtr := rfl
@[simp] theorem setPool_ordersSent (g : Nat) (v : List Nat) : (s.setPool g v).ordersSent = s.ordersSent := rfl
@[simp] theorem setPool_units (g : Nat) (v : List Nat) : (s.setPool g v).units = s.units := rfl
@[simp] theorem setPool_scan (g : Nat) (v : List Nat) : (s.setPool g v).scan = s.scan := rfl
@[simp] theorem setPool_working (g : Nat) (v : List Nat) : (s.setPool g v).working = s.working := rfl
@[simp] theorem setPool_nominations (g : Nat) (v : List Nat) : (s.setPool g v).nominations = s.nominations := rfl
@[simp] theorem setPool_epoch (g : Nat) (v : List Nat) : (s.setPool g v).epoch = s.epoch := rfl
@[simp] theorem setPool_epochTimer (g : Nat) (v : List Nat) : (s.setPool g v).epochTimer = s.epochTimer := rfl
@[simp] theorem setPool_scanCount (g : Nat) (v : List Nat) : (s.setPool g v).scanCount = s.scanCount := rfl
@[simp] theorem setPool_policyHold (g : Nat) (v : List Nat) : (s.setPool g v).policyHold = s.policyHold := rfl
@[simp] theorem setPool_lost (g : Nat) (v : List Nat) : (s.setPool g v).lost = s.lost := rfl
@[simp] theorem setPool_holdLevel (g : Nat) (v : List Nat) : (s.setPool g v).holdLevel = s.holdLevel := rfl
@[simp] theorem setPool_work (g : Nat) (v : List Nat) : (s.setPool g v).work = s.work := rfl
@[simp] theorem setPool_pending (g : Nat) (v : List Nat) : (s.setPool g v).pending = s.pending := rfl
theorem setPool_pools (g : Nat) (v : List Nat) : (s.setPool g v).pools = putRow [] s.pools g v := rfl
@[simp] theorem setPool_tenant (g : Nat) (v : List Nat) (n : Nat) : (s.setPool g v).tenant n = s.tenant n := rfl
@[simp] theorem setPool_stream (g : Nat) (v : List Nat) (n x' : Nat) : (s.setPool g v).stream n x' = s.stream n x' := rfl
@[simp] theorem setPool_lane (g : Nat) (v : List Nat) (n : Nat) : (s.setPool g v).lane n = s.lane n := rfl
@[simp] theorem setPool_unit (g : Nat) (v : List Nat) (n : Nat) : (s.setPool g v).unit n = s.unit n := rfl
@[simp] theorem setPool_die (g : Nat) (v : List Nat) (n : Nat) : (s.setPool g v).die n = s.die n := rfl
@[simp] theorem setPool_pendingSet (g : Nat) (v : List Nat) (n : Nat) : (s.setPool g v).pendingSet n = s.pendingSet n := rfl

/-! ## setPendingSet -/

@[simp] theorem setPendingSet_device (src : Nat) (v : List NoticeEntry) : (s.setPendingSet src v).device = s.device := rfl
@[simp] theorem setPendingSet_settings (src : Nat) (v : List NoticeEntry) : (s.setPendingSet src v).settings = s.settings := rfl
@[simp] theorem setPendingSet_intake (src : Nat) (v : List NoticeEntry) : (s.setPendingSet src v).intake = s.intake := rfl
@[simp] theorem setPendingSet_flushes (src : Nat) (v : List NoticeEntry) : (s.setPendingSet src v).flushes = s.flushes := rfl
@[simp] theorem setPendingSet_replies (src : Nat) (v : List NoticeEntry) : (s.setPendingSet src v).replies = s.replies := rfl
@[simp] theorem setPendingSet_tx (src : Nat) (v : List NoticeEntry) : (s.setPendingSet src v).tx = s.tx := rfl
@[simp] theorem setPendingSet_receiving (src : Nat) (v : List NoticeEntry) : (s.setPendingSet src v).receiving = s.receiving := rfl
@[simp] theorem setPendingSet_resyncArmed (src : Nat) (v : List NoticeEntry) : (s.setPendingSet src v).resyncArmed = s.resyncArmed := rfl
@[simp] theorem setPendingSet_resetWait (src : Nat) (v : List NoticeEntry) : (s.setPendingSet src v).resetWait = s.resetWait := rfl
@[simp] theorem setPendingSet_credit (src : Nat) (v : List NoticeEntry) : (s.setPendingSet src v).credit = s.credit := rfl
@[simp] theorem setPendingSet_preference (src : Nat) (v : List NoticeEntry) : (s.setPendingSet src v).preference = s.preference := rfl
@[simp] theorem setPendingSet_placement (src : Nat) (v : List NoticeEntry) : (s.setPendingSet src v).placement = s.placement := rfl
@[simp] theorem setPendingSet_attention (src : Nat) (v : List NoticeEntry) : (s.setPendingSet src v).attention = s.attention := rfl
@[simp] theorem setPendingSet_counters (src : Nat) (v : List NoticeEntry) : (s.setPendingSet src v).counters = s.counters := rfl
@[simp] theorem setPendingSet_mdlRst (src : Nat) (v : List NoticeEntry) : (s.setPendingSet src v).mdlRst = s.mdlRst := rfl
@[simp] theorem setPendingSet_tenants (src : Nat) (v : List NoticeEntry) : (s.setPendingSet src v).tenants = s.tenants := rfl
@[simp] theorem setPendingSet_streams (src : Nat) (v : List NoticeEntry) : (s.setPendingSet src v).streams = s.streams := rfl
@[simp] theorem setPendingSet_lanes (src : Nat) (v : List NoticeEntry) : (s.setPendingSet src v).lanes = s.lanes := rfl
@[simp] theorem setPendingSet_recency (src : Nat) (v : List NoticeEntry) : (s.setPendingSet src v).recency = s.recency := rfl
@[simp] theorem setPendingSet_laneWait (src : Nat) (v : List NoticeEntry) : (s.setPendingSet src v).laneWait = s.laneWait := rfl
@[simp] theorem setPendingSet_parked (src : Nat) (v : List NoticeEntry) : (s.setPendingSet src v).parked = s.parked := rfl
@[simp] theorem setPendingSet_pools (src : Nat) (v : List NoticeEntry) : (s.setPendingSet src v).pools = s.pools := rfl
@[simp] theorem setPendingSet_unitWait (src : Nat) (v : List NoticeEntry) : (s.setPendingSet src v).unitWait = s.unitWait := rfl
@[simp] theorem setPendingSet_dies (src : Nat) (v : List NoticeEntry) : (s.setPendingSet src v).dies = s.dies := rfl
@[simp] theorem setPendingSet_groupPos (src : Nat) (v : List NoticeEntry) : (s.setPendingSet src v).groupPos = s.groupPos := rfl
@[simp] theorem setPendingSet_groupPtr (src : Nat) (v : List NoticeEntry) : (s.setPendingSet src v).groupPtr = s.groupPtr := rfl
@[simp] theorem setPendingSet_ordersSent (src : Nat) (v : List NoticeEntry) : (s.setPendingSet src v).ordersSent = s.ordersSent := rfl
@[simp] theorem setPendingSet_units (src : Nat) (v : List NoticeEntry) : (s.setPendingSet src v).units = s.units := rfl
@[simp] theorem setPendingSet_scan (src : Nat) (v : List NoticeEntry) : (s.setPendingSet src v).scan = s.scan := rfl
@[simp] theorem setPendingSet_working (src : Nat) (v : List NoticeEntry) : (s.setPendingSet src v).working = s.working := rfl
@[simp] theorem setPendingSet_nominations (src : Nat) (v : List NoticeEntry) : (s.setPendingSet src v).nominations = s.nominations := rfl
@[simp] theorem setPendingSet_epoch (src : Nat) (v : List NoticeEntry) : (s.setPendingSet src v).epoch = s.epoch := rfl
@[simp] theorem setPendingSet_epochTimer (src : Nat) (v : List NoticeEntry) : (s.setPendingSet src v).epochTimer = s.epochTimer := rfl
@[simp] theorem setPendingSet_scanCount (src : Nat) (v : List NoticeEntry) : (s.setPendingSet src v).scanCount = s.scanCount := rfl
@[simp] theorem setPendingSet_policyHold (src : Nat) (v : List NoticeEntry) : (s.setPendingSet src v).policyHold = s.policyHold := rfl
@[simp] theorem setPendingSet_lost (src : Nat) (v : List NoticeEntry) : (s.setPendingSet src v).lost = s.lost := rfl
@[simp] theorem setPendingSet_holdLevel (src : Nat) (v : List NoticeEntry) : (s.setPendingSet src v).holdLevel = s.holdLevel := rfl
@[simp] theorem setPendingSet_work (src : Nat) (v : List NoticeEntry) : (s.setPendingSet src v).work = s.work := rfl
@[simp] theorem setPendingSet_pending (src : Nat) (v : List NoticeEntry) : (s.setPendingSet src v).pending = s.pending := rfl
theorem setPendingSet_notices (src : Nat) (v : List NoticeEntry) : (s.setPendingSet src v).notices = putRow [] s.notices src v := rfl
@[simp] theorem setPendingSet_tenant (src : Nat) (v : List NoticeEntry) (n : Nat) : (s.setPendingSet src v).tenant n = s.tenant n := rfl
@[simp] theorem setPendingSet_stream (src : Nat) (v : List NoticeEntry) (n x' : Nat) : (s.setPendingSet src v).stream n x' = s.stream n x' := rfl
@[simp] theorem setPendingSet_lane (src : Nat) (v : List NoticeEntry) (n : Nat) : (s.setPendingSet src v).lane n = s.lane n := rfl
@[simp] theorem setPendingSet_unit (src : Nat) (v : List NoticeEntry) (n : Nat) : (s.setPendingSet src v).unit n = s.unit n := rfl
@[simp] theorem setPendingSet_die (src : Nat) (v : List NoticeEntry) (n : Nat) : (s.setPendingSet src v).die n = s.die n := rfl
@[simp] theorem setPendingSet_pool (src : Nat) (v : List NoticeEntry) (n : Nat) : (s.setPendingSet src v).pool n = s.pool n := rfl

/-! ## modTenant -/

@[simp] theorem modTenant_device (t : Nat) (f : Tenant → Tenant) : (s.modTenant t f).device = s.device := rfl
@[simp] theorem modTenant_settings (t : Nat) (f : Tenant → Tenant) : (s.modTenant t f).settings = s.settings := rfl
@[simp] theorem modTenant_intake (t : Nat) (f : Tenant → Tenant) : (s.modTenant t f).intake = s.intake := rfl
@[simp] theorem modTenant_flushes (t : Nat) (f : Tenant → Tenant) : (s.modTenant t f).flushes = s.flushes := rfl
@[simp] theorem modTenant_replies (t : Nat) (f : Tenant → Tenant) : (s.modTenant t f).replies = s.replies := rfl
@[simp] theorem modTenant_tx (t : Nat) (f : Tenant → Tenant) : (s.modTenant t f).tx = s.tx := rfl
@[simp] theorem modTenant_receiving (t : Nat) (f : Tenant → Tenant) : (s.modTenant t f).receiving = s.receiving := rfl
@[simp] theorem modTenant_resyncArmed (t : Nat) (f : Tenant → Tenant) : (s.modTenant t f).resyncArmed = s.resyncArmed := rfl
@[simp] theorem modTenant_resetWait (t : Nat) (f : Tenant → Tenant) : (s.modTenant t f).resetWait = s.resetWait := rfl
@[simp] theorem modTenant_credit (t : Nat) (f : Tenant → Tenant) : (s.modTenant t f).credit = s.credit := rfl
@[simp] theorem modTenant_preference (t : Nat) (f : Tenant → Tenant) : (s.modTenant t f).preference = s.preference := rfl
@[simp] theorem modTenant_placement (t : Nat) (f : Tenant → Tenant) : (s.modTenant t f).placement = s.placement := rfl
@[simp] theorem modTenant_notices (t : Nat) (f : Tenant → Tenant) : (s.modTenant t f).notices = s.notices := rfl
@[simp] theorem modTenant_attention (t : Nat) (f : Tenant → Tenant) : (s.modTenant t f).attention = s.attention := rfl
@[simp] theorem modTenant_counters (t : Nat) (f : Tenant → Tenant) : (s.modTenant t f).counters = s.counters := rfl
@[simp] theorem modTenant_mdlRst (t : Nat) (f : Tenant → Tenant) : (s.modTenant t f).mdlRst = s.mdlRst := rfl
@[simp] theorem modTenant_streams (t : Nat) (f : Tenant → Tenant) : (s.modTenant t f).streams = s.streams := rfl
@[simp] theorem modTenant_lanes (t : Nat) (f : Tenant → Tenant) : (s.modTenant t f).lanes = s.lanes := rfl
@[simp] theorem modTenant_recency (t : Nat) (f : Tenant → Tenant) : (s.modTenant t f).recency = s.recency := rfl
@[simp] theorem modTenant_laneWait (t : Nat) (f : Tenant → Tenant) : (s.modTenant t f).laneWait = s.laneWait := rfl
@[simp] theorem modTenant_parked (t : Nat) (f : Tenant → Tenant) : (s.modTenant t f).parked = s.parked := rfl
@[simp] theorem modTenant_pools (t : Nat) (f : Tenant → Tenant) : (s.modTenant t f).pools = s.pools := rfl
@[simp] theorem modTenant_unitWait (t : Nat) (f : Tenant → Tenant) : (s.modTenant t f).unitWait = s.unitWait := rfl
@[simp] theorem modTenant_dies (t : Nat) (f : Tenant → Tenant) : (s.modTenant t f).dies = s.dies := rfl
@[simp] theorem modTenant_groupPos (t : Nat) (f : Tenant → Tenant) : (s.modTenant t f).groupPos = s.groupPos := rfl
@[simp] theorem modTenant_groupPtr (t : Nat) (f : Tenant → Tenant) : (s.modTenant t f).groupPtr = s.groupPtr := rfl
@[simp] theorem modTenant_ordersSent (t : Nat) (f : Tenant → Tenant) : (s.modTenant t f).ordersSent = s.ordersSent := rfl
@[simp] theorem modTenant_units (t : Nat) (f : Tenant → Tenant) : (s.modTenant t f).units = s.units := rfl
@[simp] theorem modTenant_scan (t : Nat) (f : Tenant → Tenant) : (s.modTenant t f).scan = s.scan := rfl
@[simp] theorem modTenant_working (t : Nat) (f : Tenant → Tenant) : (s.modTenant t f).working = s.working := rfl
@[simp] theorem modTenant_nominations (t : Nat) (f : Tenant → Tenant) : (s.modTenant t f).nominations = s.nominations := rfl
@[simp] theorem modTenant_epoch (t : Nat) (f : Tenant → Tenant) : (s.modTenant t f).epoch = s.epoch := rfl
@[simp] theorem modTenant_epochTimer (t : Nat) (f : Tenant → Tenant) : (s.modTenant t f).epochTimer = s.epochTimer := rfl
@[simp] theorem modTenant_scanCount (t : Nat) (f : Tenant → Tenant) : (s.modTenant t f).scanCount = s.scanCount := rfl
@[simp] theorem modTenant_policyHold (t : Nat) (f : Tenant → Tenant) : (s.modTenant t f).policyHold = s.policyHold := rfl
@[simp] theorem modTenant_lost (t : Nat) (f : Tenant → Tenant) : (s.modTenant t f).lost = s.lost := rfl
@[simp] theorem modTenant_holdLevel (t : Nat) (f : Tenant → Tenant) : (s.modTenant t f).holdLevel = s.holdLevel := rfl
@[simp] theorem modTenant_work (t : Nat) (f : Tenant → Tenant) : (s.modTenant t f).work = s.work := rfl
@[simp] theorem modTenant_pending (t : Nat) (f : Tenant → Tenant) : (s.modTenant t f).pending = s.pending := rfl
@[simp] theorem modTenant_stream (t : Nat) (f : Tenant → Tenant) (n x' : Nat) : (s.modTenant t f).stream n x' = s.stream n x' := rfl
@[simp] theorem modTenant_lane (t : Nat) (f : Tenant → Tenant) (n : Nat) : (s.modTenant t f).lane n = s.lane n := rfl
@[simp] theorem modTenant_unit (t : Nat) (f : Tenant → Tenant) (n : Nat) : (s.modTenant t f).unit n = s.unit n := rfl
@[simp] theorem modTenant_die (t : Nat) (f : Tenant → Tenant) (n : Nat) : (s.modTenant t f).die n = s.die n := rfl
@[simp] theorem modTenant_pool (t : Nat) (f : Tenant → Tenant) (n : Nat) : (s.modTenant t f).pool n = s.pool n := rfl
@[simp] theorem modTenant_pendingSet (t : Nat) (f : Tenant → Tenant) (n : Nat) : (s.modTenant t f).pendingSet n = s.pendingSet n := rfl

/-! ## modTenantCounters -/

@[simp] theorem modTenantCounters_device (t : Nat) (f : TenantCounters → TenantCounters) : (s.modTenantCounters t f).device = s.device := rfl
@[simp] theorem modTenantCounters_settings (t : Nat) (f : TenantCounters → TenantCounters) : (s.modTenantCounters t f).settings = s.settings := rfl
@[simp] theorem modTenantCounters_intake (t : Nat) (f : TenantCounters → TenantCounters) : (s.modTenantCounters t f).intake = s.intake := rfl
@[simp] theorem modTenantCounters_flushes (t : Nat) (f : TenantCounters → TenantCounters) : (s.modTenantCounters t f).flushes = s.flushes := rfl
@[simp] theorem modTenantCounters_replies (t : Nat) (f : TenantCounters → TenantCounters) : (s.modTenantCounters t f).replies = s.replies := rfl
@[simp] theorem modTenantCounters_tx (t : Nat) (f : TenantCounters → TenantCounters) : (s.modTenantCounters t f).tx = s.tx := rfl
@[simp] theorem modTenantCounters_receiving (t : Nat) (f : TenantCounters → TenantCounters) : (s.modTenantCounters t f).receiving = s.receiving := rfl
@[simp] theorem modTenantCounters_resyncArmed (t : Nat) (f : TenantCounters → TenantCounters) : (s.modTenantCounters t f).resyncArmed = s.resyncArmed := rfl
@[simp] theorem modTenantCounters_resetWait (t : Nat) (f : TenantCounters → TenantCounters) : (s.modTenantCounters t f).resetWait = s.resetWait := rfl
@[simp] theorem modTenantCounters_credit (t : Nat) (f : TenantCounters → TenantCounters) : (s.modTenantCounters t f).credit = s.credit := rfl
@[simp] theorem modTenantCounters_preference (t : Nat) (f : TenantCounters → TenantCounters) : (s.modTenantCounters t f).preference = s.preference := rfl
@[simp] theorem modTenantCounters_placement (t : Nat) (f : TenantCounters → TenantCounters) : (s.modTenantCounters t f).placement = s.placement := rfl
@[simp] theorem modTenantCounters_notices (t : Nat) (f : TenantCounters → TenantCounters) : (s.modTenantCounters t f).notices = s.notices := rfl
@[simp] theorem modTenantCounters_attention (t : Nat) (f : TenantCounters → TenantCounters) : (s.modTenantCounters t f).attention = s.attention := rfl
@[simp] theorem modTenantCounters_counters (t : Nat) (f : TenantCounters → TenantCounters) : (s.modTenantCounters t f).counters = s.counters := rfl
@[simp] theorem modTenantCounters_mdlRst (t : Nat) (f : TenantCounters → TenantCounters) : (s.modTenantCounters t f).mdlRst = s.mdlRst := rfl
@[simp] theorem modTenantCounters_streams (t : Nat) (f : TenantCounters → TenantCounters) : (s.modTenantCounters t f).streams = s.streams := rfl
@[simp] theorem modTenantCounters_lanes (t : Nat) (f : TenantCounters → TenantCounters) : (s.modTenantCounters t f).lanes = s.lanes := rfl
@[simp] theorem modTenantCounters_recency (t : Nat) (f : TenantCounters → TenantCounters) : (s.modTenantCounters t f).recency = s.recency := rfl
@[simp] theorem modTenantCounters_laneWait (t : Nat) (f : TenantCounters → TenantCounters) : (s.modTenantCounters t f).laneWait = s.laneWait := rfl
@[simp] theorem modTenantCounters_parked (t : Nat) (f : TenantCounters → TenantCounters) : (s.modTenantCounters t f).parked = s.parked := rfl
@[simp] theorem modTenantCounters_pools (t : Nat) (f : TenantCounters → TenantCounters) : (s.modTenantCounters t f).pools = s.pools := rfl
@[simp] theorem modTenantCounters_unitWait (t : Nat) (f : TenantCounters → TenantCounters) : (s.modTenantCounters t f).unitWait = s.unitWait := rfl
@[simp] theorem modTenantCounters_dies (t : Nat) (f : TenantCounters → TenantCounters) : (s.modTenantCounters t f).dies = s.dies := rfl
@[simp] theorem modTenantCounters_groupPos (t : Nat) (f : TenantCounters → TenantCounters) : (s.modTenantCounters t f).groupPos = s.groupPos := rfl
@[simp] theorem modTenantCounters_groupPtr (t : Nat) (f : TenantCounters → TenantCounters) : (s.modTenantCounters t f).groupPtr = s.groupPtr := rfl
@[simp] theorem modTenantCounters_ordersSent (t : Nat) (f : TenantCounters → TenantCounters) : (s.modTenantCounters t f).ordersSent = s.ordersSent := rfl
@[simp] theorem modTenantCounters_units (t : Nat) (f : TenantCounters → TenantCounters) : (s.modTenantCounters t f).units = s.units := rfl
@[simp] theorem modTenantCounters_scan (t : Nat) (f : TenantCounters → TenantCounters) : (s.modTenantCounters t f).scan = s.scan := rfl
@[simp] theorem modTenantCounters_working (t : Nat) (f : TenantCounters → TenantCounters) : (s.modTenantCounters t f).working = s.working := rfl
@[simp] theorem modTenantCounters_nominations (t : Nat) (f : TenantCounters → TenantCounters) : (s.modTenantCounters t f).nominations = s.nominations := rfl
@[simp] theorem modTenantCounters_epoch (t : Nat) (f : TenantCounters → TenantCounters) : (s.modTenantCounters t f).epoch = s.epoch := rfl
@[simp] theorem modTenantCounters_epochTimer (t : Nat) (f : TenantCounters → TenantCounters) : (s.modTenantCounters t f).epochTimer = s.epochTimer := rfl
@[simp] theorem modTenantCounters_scanCount (t : Nat) (f : TenantCounters → TenantCounters) : (s.modTenantCounters t f).scanCount = s.scanCount := rfl
@[simp] theorem modTenantCounters_policyHold (t : Nat) (f : TenantCounters → TenantCounters) : (s.modTenantCounters t f).policyHold = s.policyHold := rfl
@[simp] theorem modTenantCounters_lost (t : Nat) (f : TenantCounters → TenantCounters) : (s.modTenantCounters t f).lost = s.lost := rfl
@[simp] theorem modTenantCounters_holdLevel (t : Nat) (f : TenantCounters → TenantCounters) : (s.modTenantCounters t f).holdLevel = s.holdLevel := rfl
@[simp] theorem modTenantCounters_work (t : Nat) (f : TenantCounters → TenantCounters) : (s.modTenantCounters t f).work = s.work := rfl
@[simp] theorem modTenantCounters_pending (t : Nat) (f : TenantCounters → TenantCounters) : (s.modTenantCounters t f).pending = s.pending := rfl
@[simp] theorem modTenantCounters_stream (t : Nat) (f : TenantCounters → TenantCounters) (n x' : Nat) : (s.modTenantCounters t f).stream n x' = s.stream n x' := rfl
@[simp] theorem modTenantCounters_lane (t : Nat) (f : TenantCounters → TenantCounters) (n : Nat) : (s.modTenantCounters t f).lane n = s.lane n := rfl
@[simp] theorem modTenantCounters_unit (t : Nat) (f : TenantCounters → TenantCounters) (n : Nat) : (s.modTenantCounters t f).unit n = s.unit n := rfl
@[simp] theorem modTenantCounters_die (t : Nat) (f : TenantCounters → TenantCounters) (n : Nat) : (s.modTenantCounters t f).die n = s.die n := rfl
@[simp] theorem modTenantCounters_pool (t : Nat) (f : TenantCounters → TenantCounters) (n : Nat) : (s.modTenantCounters t f).pool n = s.pool n := rfl
@[simp] theorem modTenantCounters_pendingSet (t : Nat) (f : TenantCounters → TenantCounters) (n : Nat) : (s.modTenantCounters t f).pendingSet n = s.pendingSet n := rfl

/-! ## modStream -/

@[simp] theorem modStream_device (t x : Nat) (f : StreamCtx → StreamCtx) : (s.modStream t x f).device = s.device := rfl
@[simp] theorem modStream_settings (t x : Nat) (f : StreamCtx → StreamCtx) : (s.modStream t x f).settings = s.settings := rfl
@[simp] theorem modStream_intake (t x : Nat) (f : StreamCtx → StreamCtx) : (s.modStream t x f).intake = s.intake := rfl
@[simp] theorem modStream_flushes (t x : Nat) (f : StreamCtx → StreamCtx) : (s.modStream t x f).flushes = s.flushes := rfl
@[simp] theorem modStream_replies (t x : Nat) (f : StreamCtx → StreamCtx) : (s.modStream t x f).replies = s.replies := rfl
@[simp] theorem modStream_tx (t x : Nat) (f : StreamCtx → StreamCtx) : (s.modStream t x f).tx = s.tx := rfl
@[simp] theorem modStream_receiving (t x : Nat) (f : StreamCtx → StreamCtx) : (s.modStream t x f).receiving = s.receiving := rfl
@[simp] theorem modStream_resyncArmed (t x : Nat) (f : StreamCtx → StreamCtx) : (s.modStream t x f).resyncArmed = s.resyncArmed := rfl
@[simp] theorem modStream_resetWait (t x : Nat) (f : StreamCtx → StreamCtx) : (s.modStream t x f).resetWait = s.resetWait := rfl
@[simp] theorem modStream_credit (t x : Nat) (f : StreamCtx → StreamCtx) : (s.modStream t x f).credit = s.credit := rfl
@[simp] theorem modStream_preference (t x : Nat) (f : StreamCtx → StreamCtx) : (s.modStream t x f).preference = s.preference := rfl
@[simp] theorem modStream_placement (t x : Nat) (f : StreamCtx → StreamCtx) : (s.modStream t x f).placement = s.placement := rfl
@[simp] theorem modStream_notices (t x : Nat) (f : StreamCtx → StreamCtx) : (s.modStream t x f).notices = s.notices := rfl
@[simp] theorem modStream_attention (t x : Nat) (f : StreamCtx → StreamCtx) : (s.modStream t x f).attention = s.attention := rfl
@[simp] theorem modStream_counters (t x : Nat) (f : StreamCtx → StreamCtx) : (s.modStream t x f).counters = s.counters := rfl
@[simp] theorem modStream_mdlRst (t x : Nat) (f : StreamCtx → StreamCtx) : (s.modStream t x f).mdlRst = s.mdlRst := rfl
@[simp] theorem modStream_tenants (t x : Nat) (f : StreamCtx → StreamCtx) : (s.modStream t x f).tenants = s.tenants := rfl
@[simp] theorem modStream_lanes (t x : Nat) (f : StreamCtx → StreamCtx) : (s.modStream t x f).lanes = s.lanes := rfl
@[simp] theorem modStream_recency (t x : Nat) (f : StreamCtx → StreamCtx) : (s.modStream t x f).recency = s.recency := rfl
@[simp] theorem modStream_laneWait (t x : Nat) (f : StreamCtx → StreamCtx) : (s.modStream t x f).laneWait = s.laneWait := rfl
@[simp] theorem modStream_parked (t x : Nat) (f : StreamCtx → StreamCtx) : (s.modStream t x f).parked = s.parked := rfl
@[simp] theorem modStream_pools (t x : Nat) (f : StreamCtx → StreamCtx) : (s.modStream t x f).pools = s.pools := rfl
@[simp] theorem modStream_unitWait (t x : Nat) (f : StreamCtx → StreamCtx) : (s.modStream t x f).unitWait = s.unitWait := rfl
@[simp] theorem modStream_dies (t x : Nat) (f : StreamCtx → StreamCtx) : (s.modStream t x f).dies = s.dies := rfl
@[simp] theorem modStream_groupPos (t x : Nat) (f : StreamCtx → StreamCtx) : (s.modStream t x f).groupPos = s.groupPos := rfl
@[simp] theorem modStream_groupPtr (t x : Nat) (f : StreamCtx → StreamCtx) : (s.modStream t x f).groupPtr = s.groupPtr := rfl
@[simp] theorem modStream_ordersSent (t x : Nat) (f : StreamCtx → StreamCtx) : (s.modStream t x f).ordersSent = s.ordersSent := rfl
@[simp] theorem modStream_units (t x : Nat) (f : StreamCtx → StreamCtx) : (s.modStream t x f).units = s.units := rfl
@[simp] theorem modStream_scan (t x : Nat) (f : StreamCtx → StreamCtx) : (s.modStream t x f).scan = s.scan := rfl
@[simp] theorem modStream_working (t x : Nat) (f : StreamCtx → StreamCtx) : (s.modStream t x f).working = s.working := rfl
@[simp] theorem modStream_nominations (t x : Nat) (f : StreamCtx → StreamCtx) : (s.modStream t x f).nominations = s.nominations := rfl
@[simp] theorem modStream_epoch (t x : Nat) (f : StreamCtx → StreamCtx) : (s.modStream t x f).epoch = s.epoch := rfl
@[simp] theorem modStream_epochTimer (t x : Nat) (f : StreamCtx → StreamCtx) : (s.modStream t x f).epochTimer = s.epochTimer := rfl
@[simp] theorem modStream_scanCount (t x : Nat) (f : StreamCtx → StreamCtx) : (s.modStream t x f).scanCount = s.scanCount := rfl
@[simp] theorem modStream_policyHold (t x : Nat) (f : StreamCtx → StreamCtx) : (s.modStream t x f).policyHold = s.policyHold := rfl
@[simp] theorem modStream_lost (t x : Nat) (f : StreamCtx → StreamCtx) : (s.modStream t x f).lost = s.lost := rfl
@[simp] theorem modStream_holdLevel (t x : Nat) (f : StreamCtx → StreamCtx) : (s.modStream t x f).holdLevel = s.holdLevel := rfl
@[simp] theorem modStream_work (t x : Nat) (f : StreamCtx → StreamCtx) : (s.modStream t x f).work = s.work := rfl
@[simp] theorem modStream_pending (t x : Nat) (f : StreamCtx → StreamCtx) : (s.modStream t x f).pending = s.pending := rfl
@[simp] theorem modStream_tenant (t x : Nat) (f : StreamCtx → StreamCtx) (n : Nat) : (s.modStream t x f).tenant n = s.tenant n := rfl
@[simp] theorem modStream_lane (t x : Nat) (f : StreamCtx → StreamCtx) (n : Nat) : (s.modStream t x f).lane n = s.lane n := rfl
@[simp] theorem modStream_unit (t x : Nat) (f : StreamCtx → StreamCtx) (n : Nat) : (s.modStream t x f).unit n = s.unit n := rfl
@[simp] theorem modStream_die (t x : Nat) (f : StreamCtx → StreamCtx) (n : Nat) : (s.modStream t x f).die n = s.die n := rfl
@[simp] theorem modStream_pool (t x : Nat) (f : StreamCtx → StreamCtx) (n : Nat) : (s.modStream t x f).pool n = s.pool n := rfl
@[simp] theorem modStream_pendingSet (t x : Nat) (f : StreamCtx → StreamCtx) (n : Nat) : (s.modStream t x f).pendingSet n = s.pendingSet n := rfl

/-! ## modLane -/

@[simp] theorem modLane_device (l : Nat) (f : Lane → Lane) : (s.modLane l f).device = s.device := rfl
@[simp] theorem modLane_settings (l : Nat) (f : Lane → Lane) : (s.modLane l f).settings = s.settings := rfl
@[simp] theorem modLane_intake (l : Nat) (f : Lane → Lane) : (s.modLane l f).intake = s.intake := rfl
@[simp] theorem modLane_flushes (l : Nat) (f : Lane → Lane) : (s.modLane l f).flushes = s.flushes := rfl
@[simp] theorem modLane_replies (l : Nat) (f : Lane → Lane) : (s.modLane l f).replies = s.replies := rfl
@[simp] theorem modLane_tx (l : Nat) (f : Lane → Lane) : (s.modLane l f).tx = s.tx := rfl
@[simp] theorem modLane_receiving (l : Nat) (f : Lane → Lane) : (s.modLane l f).receiving = s.receiving := rfl
@[simp] theorem modLane_resyncArmed (l : Nat) (f : Lane → Lane) : (s.modLane l f).resyncArmed = s.resyncArmed := rfl
@[simp] theorem modLane_resetWait (l : Nat) (f : Lane → Lane) : (s.modLane l f).resetWait = s.resetWait := rfl
@[simp] theorem modLane_credit (l : Nat) (f : Lane → Lane) : (s.modLane l f).credit = s.credit := rfl
@[simp] theorem modLane_preference (l : Nat) (f : Lane → Lane) : (s.modLane l f).preference = s.preference := rfl
@[simp] theorem modLane_placement (l : Nat) (f : Lane → Lane) : (s.modLane l f).placement = s.placement := rfl
@[simp] theorem modLane_notices (l : Nat) (f : Lane → Lane) : (s.modLane l f).notices = s.notices := rfl
@[simp] theorem modLane_attention (l : Nat) (f : Lane → Lane) : (s.modLane l f).attention = s.attention := rfl
@[simp] theorem modLane_counters (l : Nat) (f : Lane → Lane) : (s.modLane l f).counters = s.counters := rfl
@[simp] theorem modLane_mdlRst (l : Nat) (f : Lane → Lane) : (s.modLane l f).mdlRst = s.mdlRst := rfl
@[simp] theorem modLane_tenants (l : Nat) (f : Lane → Lane) : (s.modLane l f).tenants = s.tenants := rfl
@[simp] theorem modLane_streams (l : Nat) (f : Lane → Lane) : (s.modLane l f).streams = s.streams := rfl
@[simp] theorem modLane_recency (l : Nat) (f : Lane → Lane) : (s.modLane l f).recency = s.recency := rfl
@[simp] theorem modLane_laneWait (l : Nat) (f : Lane → Lane) : (s.modLane l f).laneWait = s.laneWait := rfl
@[simp] theorem modLane_parked (l : Nat) (f : Lane → Lane) : (s.modLane l f).parked = s.parked := rfl
@[simp] theorem modLane_pools (l : Nat) (f : Lane → Lane) : (s.modLane l f).pools = s.pools := rfl
@[simp] theorem modLane_unitWait (l : Nat) (f : Lane → Lane) : (s.modLane l f).unitWait = s.unitWait := rfl
@[simp] theorem modLane_dies (l : Nat) (f : Lane → Lane) : (s.modLane l f).dies = s.dies := rfl
@[simp] theorem modLane_groupPos (l : Nat) (f : Lane → Lane) : (s.modLane l f).groupPos = s.groupPos := rfl
@[simp] theorem modLane_groupPtr (l : Nat) (f : Lane → Lane) : (s.modLane l f).groupPtr = s.groupPtr := rfl
@[simp] theorem modLane_ordersSent (l : Nat) (f : Lane → Lane) : (s.modLane l f).ordersSent = s.ordersSent := rfl
@[simp] theorem modLane_units (l : Nat) (f : Lane → Lane) : (s.modLane l f).units = s.units := rfl
@[simp] theorem modLane_scan (l : Nat) (f : Lane → Lane) : (s.modLane l f).scan = s.scan := rfl
@[simp] theorem modLane_working (l : Nat) (f : Lane → Lane) : (s.modLane l f).working = s.working := rfl
@[simp] theorem modLane_nominations (l : Nat) (f : Lane → Lane) : (s.modLane l f).nominations = s.nominations := rfl
@[simp] theorem modLane_epoch (l : Nat) (f : Lane → Lane) : (s.modLane l f).epoch = s.epoch := rfl
@[simp] theorem modLane_epochTimer (l : Nat) (f : Lane → Lane) : (s.modLane l f).epochTimer = s.epochTimer := rfl
@[simp] theorem modLane_scanCount (l : Nat) (f : Lane → Lane) : (s.modLane l f).scanCount = s.scanCount := rfl
@[simp] theorem modLane_policyHold (l : Nat) (f : Lane → Lane) : (s.modLane l f).policyHold = s.policyHold := rfl
@[simp] theorem modLane_lost (l : Nat) (f : Lane → Lane) : (s.modLane l f).lost = s.lost := rfl
@[simp] theorem modLane_holdLevel (l : Nat) (f : Lane → Lane) : (s.modLane l f).holdLevel = s.holdLevel := rfl
@[simp] theorem modLane_work (l : Nat) (f : Lane → Lane) : (s.modLane l f).work = s.work := rfl
@[simp] theorem modLane_pending (l : Nat) (f : Lane → Lane) : (s.modLane l f).pending = s.pending := rfl
@[simp] theorem modLane_tenant (l : Nat) (f : Lane → Lane) (n : Nat) : (s.modLane l f).tenant n = s.tenant n := rfl
@[simp] theorem modLane_stream (l : Nat) (f : Lane → Lane) (n x' : Nat) : (s.modLane l f).stream n x' = s.stream n x' := rfl
@[simp] theorem modLane_unit (l : Nat) (f : Lane → Lane) (n : Nat) : (s.modLane l f).unit n = s.unit n := rfl
@[simp] theorem modLane_die (l : Nat) (f : Lane → Lane) (n : Nat) : (s.modLane l f).die n = s.die n := rfl
@[simp] theorem modLane_pool (l : Nat) (f : Lane → Lane) (n : Nat) : (s.modLane l f).pool n = s.pool n := rfl
@[simp] theorem modLane_pendingSet (l : Nat) (f : Lane → Lane) (n : Nat) : (s.modLane l f).pendingSet n = s.pendingSet n := rfl

/-! ## modHalf -/

@[simp] theorem modHalf_device (l : Nat) (h : HalfId) (f : Half → Half) : (s.modHalf l h f).device = s.device := rfl
@[simp] theorem modHalf_settings (l : Nat) (h : HalfId) (f : Half → Half) : (s.modHalf l h f).settings = s.settings := rfl
@[simp] theorem modHalf_intake (l : Nat) (h : HalfId) (f : Half → Half) : (s.modHalf l h f).intake = s.intake := rfl
@[simp] theorem modHalf_flushes (l : Nat) (h : HalfId) (f : Half → Half) : (s.modHalf l h f).flushes = s.flushes := rfl
@[simp] theorem modHalf_replies (l : Nat) (h : HalfId) (f : Half → Half) : (s.modHalf l h f).replies = s.replies := rfl
@[simp] theorem modHalf_tx (l : Nat) (h : HalfId) (f : Half → Half) : (s.modHalf l h f).tx = s.tx := rfl
@[simp] theorem modHalf_receiving (l : Nat) (h : HalfId) (f : Half → Half) : (s.modHalf l h f).receiving = s.receiving := rfl
@[simp] theorem modHalf_resyncArmed (l : Nat) (h : HalfId) (f : Half → Half) : (s.modHalf l h f).resyncArmed = s.resyncArmed := rfl
@[simp] theorem modHalf_resetWait (l : Nat) (h : HalfId) (f : Half → Half) : (s.modHalf l h f).resetWait = s.resetWait := rfl
@[simp] theorem modHalf_credit (l : Nat) (h : HalfId) (f : Half → Half) : (s.modHalf l h f).credit = s.credit := rfl
@[simp] theorem modHalf_preference (l : Nat) (h : HalfId) (f : Half → Half) : (s.modHalf l h f).preference = s.preference := rfl
@[simp] theorem modHalf_placement (l : Nat) (h : HalfId) (f : Half → Half) : (s.modHalf l h f).placement = s.placement := rfl
@[simp] theorem modHalf_notices (l : Nat) (h : HalfId) (f : Half → Half) : (s.modHalf l h f).notices = s.notices := rfl
@[simp] theorem modHalf_attention (l : Nat) (h : HalfId) (f : Half → Half) : (s.modHalf l h f).attention = s.attention := rfl
@[simp] theorem modHalf_counters (l : Nat) (h : HalfId) (f : Half → Half) : (s.modHalf l h f).counters = s.counters := rfl
@[simp] theorem modHalf_mdlRst (l : Nat) (h : HalfId) (f : Half → Half) : (s.modHalf l h f).mdlRst = s.mdlRst := rfl
@[simp] theorem modHalf_tenants (l : Nat) (h : HalfId) (f : Half → Half) : (s.modHalf l h f).tenants = s.tenants := rfl
@[simp] theorem modHalf_streams (l : Nat) (h : HalfId) (f : Half → Half) : (s.modHalf l h f).streams = s.streams := rfl
@[simp] theorem modHalf_recency (l : Nat) (h : HalfId) (f : Half → Half) : (s.modHalf l h f).recency = s.recency := rfl
@[simp] theorem modHalf_laneWait (l : Nat) (h : HalfId) (f : Half → Half) : (s.modHalf l h f).laneWait = s.laneWait := rfl
@[simp] theorem modHalf_parked (l : Nat) (h : HalfId) (f : Half → Half) : (s.modHalf l h f).parked = s.parked := rfl
@[simp] theorem modHalf_pools (l : Nat) (h : HalfId) (f : Half → Half) : (s.modHalf l h f).pools = s.pools := rfl
@[simp] theorem modHalf_unitWait (l : Nat) (h : HalfId) (f : Half → Half) : (s.modHalf l h f).unitWait = s.unitWait := rfl
@[simp] theorem modHalf_dies (l : Nat) (h : HalfId) (f : Half → Half) : (s.modHalf l h f).dies = s.dies := rfl
@[simp] theorem modHalf_groupPos (l : Nat) (h : HalfId) (f : Half → Half) : (s.modHalf l h f).groupPos = s.groupPos := rfl
@[simp] theorem modHalf_groupPtr (l : Nat) (h : HalfId) (f : Half → Half) : (s.modHalf l h f).groupPtr = s.groupPtr := rfl
@[simp] theorem modHalf_ordersSent (l : Nat) (h : HalfId) (f : Half → Half) : (s.modHalf l h f).ordersSent = s.ordersSent := rfl
@[simp] theorem modHalf_units (l : Nat) (h : HalfId) (f : Half → Half) : (s.modHalf l h f).units = s.units := rfl
@[simp] theorem modHalf_scan (l : Nat) (h : HalfId) (f : Half → Half) : (s.modHalf l h f).scan = s.scan := rfl
@[simp] theorem modHalf_working (l : Nat) (h : HalfId) (f : Half → Half) : (s.modHalf l h f).working = s.working := rfl
@[simp] theorem modHalf_nominations (l : Nat) (h : HalfId) (f : Half → Half) : (s.modHalf l h f).nominations = s.nominations := rfl
@[simp] theorem modHalf_epoch (l : Nat) (h : HalfId) (f : Half → Half) : (s.modHalf l h f).epoch = s.epoch := rfl
@[simp] theorem modHalf_epochTimer (l : Nat) (h : HalfId) (f : Half → Half) : (s.modHalf l h f).epochTimer = s.epochTimer := rfl
@[simp] theorem modHalf_scanCount (l : Nat) (h : HalfId) (f : Half → Half) : (s.modHalf l h f).scanCount = s.scanCount := rfl
@[simp] theorem modHalf_policyHold (l : Nat) (h : HalfId) (f : Half → Half) : (s.modHalf l h f).policyHold = s.policyHold := rfl
@[simp] theorem modHalf_lost (l : Nat) (h : HalfId) (f : Half → Half) : (s.modHalf l h f).lost = s.lost := rfl
@[simp] theorem modHalf_holdLevel (l : Nat) (h : HalfId) (f : Half → Half) : (s.modHalf l h f).holdLevel = s.holdLevel := rfl
@[simp] theorem modHalf_work (l : Nat) (h : HalfId) (f : Half → Half) : (s.modHalf l h f).work = s.work := rfl
@[simp] theorem modHalf_pending (l : Nat) (h : HalfId) (f : Half → Half) : (s.modHalf l h f).pending = s.pending := rfl
@[simp] theorem modHalf_tenant (l : Nat) (h : HalfId) (f : Half → Half) (n : Nat) : (s.modHalf l h f).tenant n = s.tenant n := rfl
@[simp] theorem modHalf_stream (l : Nat) (h : HalfId) (f : Half → Half) (n x' : Nat) : (s.modHalf l h f).stream n x' = s.stream n x' := rfl
@[simp] theorem modHalf_unit (l : Nat) (h : HalfId) (f : Half → Half) (n : Nat) : (s.modHalf l h f).unit n = s.unit n := rfl
@[simp] theorem modHalf_die (l : Nat) (h : HalfId) (f : Half → Half) (n : Nat) : (s.modHalf l h f).die n = s.die n := rfl
@[simp] theorem modHalf_pool (l : Nat) (h : HalfId) (f : Half → Half) (n : Nat) : (s.modHalf l h f).pool n = s.pool n := rfl
@[simp] theorem modHalf_pendingSet (l : Nat) (h : HalfId) (f : Half → Half) (n : Nat) : (s.modHalf l h f).pendingSet n = s.pendingSet n := rfl

/-! ## modUnit -/

@[simp] theorem modUnit_device (u : Nat) (f : UnitRec → UnitRec) : (s.modUnit u f).device = s.device := rfl
@[simp] theorem modUnit_settings (u : Nat) (f : UnitRec → UnitRec) : (s.modUnit u f).settings = s.settings := rfl
@[simp] theorem modUnit_intake (u : Nat) (f : UnitRec → UnitRec) : (s.modUnit u f).intake = s.intake := rfl
@[simp] theorem modUnit_flushes (u : Nat) (f : UnitRec → UnitRec) : (s.modUnit u f).flushes = s.flushes := rfl
@[simp] theorem modUnit_replies (u : Nat) (f : UnitRec → UnitRec) : (s.modUnit u f).replies = s.replies := rfl
@[simp] theorem modUnit_tx (u : Nat) (f : UnitRec → UnitRec) : (s.modUnit u f).tx = s.tx := rfl
@[simp] theorem modUnit_receiving (u : Nat) (f : UnitRec → UnitRec) : (s.modUnit u f).receiving = s.receiving := rfl
@[simp] theorem modUnit_resyncArmed (u : Nat) (f : UnitRec → UnitRec) : (s.modUnit u f).resyncArmed = s.resyncArmed := rfl
@[simp] theorem modUnit_resetWait (u : Nat) (f : UnitRec → UnitRec) : (s.modUnit u f).resetWait = s.resetWait := rfl
@[simp] theorem modUnit_credit (u : Nat) (f : UnitRec → UnitRec) : (s.modUnit u f).credit = s.credit := rfl
@[simp] theorem modUnit_preference (u : Nat) (f : UnitRec → UnitRec) : (s.modUnit u f).preference = s.preference := rfl
@[simp] theorem modUnit_placement (u : Nat) (f : UnitRec → UnitRec) : (s.modUnit u f).placement = s.placement := rfl
@[simp] theorem modUnit_notices (u : Nat) (f : UnitRec → UnitRec) : (s.modUnit u f).notices = s.notices := rfl
@[simp] theorem modUnit_attention (u : Nat) (f : UnitRec → UnitRec) : (s.modUnit u f).attention = s.attention := rfl
@[simp] theorem modUnit_counters (u : Nat) (f : UnitRec → UnitRec) : (s.modUnit u f).counters = s.counters := rfl
@[simp] theorem modUnit_mdlRst (u : Nat) (f : UnitRec → UnitRec) : (s.modUnit u f).mdlRst = s.mdlRst := rfl
@[simp] theorem modUnit_tenants (u : Nat) (f : UnitRec → UnitRec) : (s.modUnit u f).tenants = s.tenants := rfl
@[simp] theorem modUnit_streams (u : Nat) (f : UnitRec → UnitRec) : (s.modUnit u f).streams = s.streams := rfl
@[simp] theorem modUnit_lanes (u : Nat) (f : UnitRec → UnitRec) : (s.modUnit u f).lanes = s.lanes := rfl
@[simp] theorem modUnit_recency (u : Nat) (f : UnitRec → UnitRec) : (s.modUnit u f).recency = s.recency := rfl
@[simp] theorem modUnit_laneWait (u : Nat) (f : UnitRec → UnitRec) : (s.modUnit u f).laneWait = s.laneWait := rfl
@[simp] theorem modUnit_parked (u : Nat) (f : UnitRec → UnitRec) : (s.modUnit u f).parked = s.parked := rfl
@[simp] theorem modUnit_pools (u : Nat) (f : UnitRec → UnitRec) : (s.modUnit u f).pools = s.pools := rfl
@[simp] theorem modUnit_unitWait (u : Nat) (f : UnitRec → UnitRec) : (s.modUnit u f).unitWait = s.unitWait := rfl
@[simp] theorem modUnit_dies (u : Nat) (f : UnitRec → UnitRec) : (s.modUnit u f).dies = s.dies := rfl
@[simp] theorem modUnit_groupPos (u : Nat) (f : UnitRec → UnitRec) : (s.modUnit u f).groupPos = s.groupPos := rfl
@[simp] theorem modUnit_groupPtr (u : Nat) (f : UnitRec → UnitRec) : (s.modUnit u f).groupPtr = s.groupPtr := rfl
@[simp] theorem modUnit_ordersSent (u : Nat) (f : UnitRec → UnitRec) : (s.modUnit u f).ordersSent = s.ordersSent := rfl
@[simp] theorem modUnit_scan (u : Nat) (f : UnitRec → UnitRec) : (s.modUnit u f).scan = s.scan := rfl
@[simp] theorem modUnit_working (u : Nat) (f : UnitRec → UnitRec) : (s.modUnit u f).working = s.working := rfl
@[simp] theorem modUnit_nominations (u : Nat) (f : UnitRec → UnitRec) : (s.modUnit u f).nominations = s.nominations := rfl
@[simp] theorem modUnit_epoch (u : Nat) (f : UnitRec → UnitRec) : (s.modUnit u f).epoch = s.epoch := rfl
@[simp] theorem modUnit_epochTimer (u : Nat) (f : UnitRec → UnitRec) : (s.modUnit u f).epochTimer = s.epochTimer := rfl
@[simp] theorem modUnit_scanCount (u : Nat) (f : UnitRec → UnitRec) : (s.modUnit u f).scanCount = s.scanCount := rfl
@[simp] theorem modUnit_policyHold (u : Nat) (f : UnitRec → UnitRec) : (s.modUnit u f).policyHold = s.policyHold := rfl
@[simp] theorem modUnit_lost (u : Nat) (f : UnitRec → UnitRec) : (s.modUnit u f).lost = s.lost := rfl
@[simp] theorem modUnit_holdLevel (u : Nat) (f : UnitRec → UnitRec) : (s.modUnit u f).holdLevel = s.holdLevel := rfl
@[simp] theorem modUnit_work (u : Nat) (f : UnitRec → UnitRec) : (s.modUnit u f).work = s.work := rfl
@[simp] theorem modUnit_pending (u : Nat) (f : UnitRec → UnitRec) : (s.modUnit u f).pending = s.pending := rfl
@[simp] theorem modUnit_tenant (u : Nat) (f : UnitRec → UnitRec) (n : Nat) : (s.modUnit u f).tenant n = s.tenant n := rfl
@[simp] theorem modUnit_stream (u : Nat) (f : UnitRec → UnitRec) (n x' : Nat) : (s.modUnit u f).stream n x' = s.stream n x' := rfl
@[simp] theorem modUnit_lane (u : Nat) (f : UnitRec → UnitRec) (n : Nat) : (s.modUnit u f).lane n = s.lane n := rfl
@[simp] theorem modUnit_die (u : Nat) (f : UnitRec → UnitRec) (n : Nat) : (s.modUnit u f).die n = s.die n := rfl
@[simp] theorem modUnit_pool (u : Nat) (f : UnitRec → UnitRec) (n : Nat) : (s.modUnit u f).pool n = s.pool n := rfl
@[simp] theorem modUnit_pendingSet (u : Nat) (f : UnitRec → UnitRec) (n : Nat) : (s.modUnit u f).pendingSet n = s.pendingSet n := rfl

/-! ## modDie -/

@[simp] theorem modDie_device (d : Nat) (f : Die → Die) : (s.modDie d f).device = s.device := rfl
@[simp] theorem modDie_settings (d : Nat) (f : Die → Die) : (s.modDie d f).settings = s.settings := rfl
@[simp] theorem modDie_intake (d : Nat) (f : Die → Die) : (s.modDie d f).intake = s.intake := rfl
@[simp] theorem modDie_flushes (d : Nat) (f : Die → Die) : (s.modDie d f).flushes = s.flushes := rfl
@[simp] theorem modDie_replies (d : Nat) (f : Die → Die) : (s.modDie d f).replies = s.replies := rfl
@[simp] theorem modDie_tx (d : Nat) (f : Die → Die) : (s.modDie d f).tx = s.tx := rfl
@[simp] theorem modDie_receiving (d : Nat) (f : Die → Die) : (s.modDie d f).receiving = s.receiving := rfl
@[simp] theorem modDie_resyncArmed (d : Nat) (f : Die → Die) : (s.modDie d f).resyncArmed = s.resyncArmed := rfl
@[simp] theorem modDie_resetWait (d : Nat) (f : Die → Die) : (s.modDie d f).resetWait = s.resetWait := rfl
@[simp] theorem modDie_credit (d : Nat) (f : Die → Die) : (s.modDie d f).credit = s.credit := rfl
@[simp] theorem modDie_preference (d : Nat) (f : Die → Die) : (s.modDie d f).preference = s.preference := rfl
@[simp] theorem modDie_placement (d : Nat) (f : Die → Die) : (s.modDie d f).placement = s.placement := rfl
@[simp] theorem modDie_notices (d : Nat) (f : Die → Die) : (s.modDie d f).notices = s.notices := rfl
@[simp] theorem modDie_attention (d : Nat) (f : Die → Die) : (s.modDie d f).attention = s.attention := rfl
@[simp] theorem modDie_counters (d : Nat) (f : Die → Die) : (s.modDie d f).counters = s.counters := rfl
@[simp] theorem modDie_mdlRst (d : Nat) (f : Die → Die) : (s.modDie d f).mdlRst = s.mdlRst := rfl
@[simp] theorem modDie_tenants (d : Nat) (f : Die → Die) : (s.modDie d f).tenants = s.tenants := rfl
@[simp] theorem modDie_streams (d : Nat) (f : Die → Die) : (s.modDie d f).streams = s.streams := rfl
@[simp] theorem modDie_lanes (d : Nat) (f : Die → Die) : (s.modDie d f).lanes = s.lanes := rfl
@[simp] theorem modDie_recency (d : Nat) (f : Die → Die) : (s.modDie d f).recency = s.recency := rfl
@[simp] theorem modDie_laneWait (d : Nat) (f : Die → Die) : (s.modDie d f).laneWait = s.laneWait := rfl
@[simp] theorem modDie_parked (d : Nat) (f : Die → Die) : (s.modDie d f).parked = s.parked := rfl
@[simp] theorem modDie_pools (d : Nat) (f : Die → Die) : (s.modDie d f).pools = s.pools := rfl
@[simp] theorem modDie_unitWait (d : Nat) (f : Die → Die) : (s.modDie d f).unitWait = s.unitWait := rfl
@[simp] theorem modDie_groupPos (d : Nat) (f : Die → Die) : (s.modDie d f).groupPos = s.groupPos := rfl
@[simp] theorem modDie_groupPtr (d : Nat) (f : Die → Die) : (s.modDie d f).groupPtr = s.groupPtr := rfl
@[simp] theorem modDie_ordersSent (d : Nat) (f : Die → Die) : (s.modDie d f).ordersSent = s.ordersSent := rfl
@[simp] theorem modDie_units (d : Nat) (f : Die → Die) : (s.modDie d f).units = s.units := rfl
@[simp] theorem modDie_scan (d : Nat) (f : Die → Die) : (s.modDie d f).scan = s.scan := rfl
@[simp] theorem modDie_working (d : Nat) (f : Die → Die) : (s.modDie d f).working = s.working := rfl
@[simp] theorem modDie_nominations (d : Nat) (f : Die → Die) : (s.modDie d f).nominations = s.nominations := rfl
@[simp] theorem modDie_epoch (d : Nat) (f : Die → Die) : (s.modDie d f).epoch = s.epoch := rfl
@[simp] theorem modDie_epochTimer (d : Nat) (f : Die → Die) : (s.modDie d f).epochTimer = s.epochTimer := rfl
@[simp] theorem modDie_scanCount (d : Nat) (f : Die → Die) : (s.modDie d f).scanCount = s.scanCount := rfl
@[simp] theorem modDie_policyHold (d : Nat) (f : Die → Die) : (s.modDie d f).policyHold = s.policyHold := rfl
@[simp] theorem modDie_lost (d : Nat) (f : Die → Die) : (s.modDie d f).lost = s.lost := rfl
@[simp] theorem modDie_holdLevel (d : Nat) (f : Die → Die) : (s.modDie d f).holdLevel = s.holdLevel := rfl
@[simp] theorem modDie_work (d : Nat) (f : Die → Die) : (s.modDie d f).work = s.work := rfl
@[simp] theorem modDie_pending (d : Nat) (f : Die → Die) : (s.modDie d f).pending = s.pending := rfl
@[simp] theorem modDie_tenant (d : Nat) (f : Die → Die) (n : Nat) : (s.modDie d f).tenant n = s.tenant n := rfl
@[simp] theorem modDie_stream (d : Nat) (f : Die → Die) (n x' : Nat) : (s.modDie d f).stream n x' = s.stream n x' := rfl
@[simp] theorem modDie_lane (d : Nat) (f : Die → Die) (n : Nat) : (s.modDie d f).lane n = s.lane n := rfl
@[simp] theorem modDie_unit (d : Nat) (f : Die → Die) (n : Nat) : (s.modDie d f).unit n = s.unit n := rfl
@[simp] theorem modDie_pool (d : Nat) (f : Die → Die) (n : Nat) : (s.modDie d f).pool n = s.pool n := rfl
@[simp] theorem modDie_pendingSet (d : Nat) (f : Die → Die) (n : Nat) : (s.modDie d f).pendingSet n = s.pendingSet n := rfl

/-! ## modCounters -/

@[simp] theorem modCounters_device (f : DeviceCounters → DeviceCounters) : (s.modCounters f).device = s.device := rfl
@[simp] theorem modCounters_settings (f : DeviceCounters → DeviceCounters) : (s.modCounters f).settings = s.settings := rfl
@[simp] theorem modCounters_intake (f : DeviceCounters → DeviceCounters) : (s.modCounters f).intake = s.intake := rfl
@[simp] theorem modCounters_flushes (f : DeviceCounters → DeviceCounters) : (s.modCounters f).flushes = s.flushes := rfl
@[simp] theorem modCounters_replies (f : DeviceCounters → DeviceCounters) : (s.modCounters f).replies = s.replies := rfl
@[simp] theorem modCounters_tx (f : DeviceCounters → DeviceCounters) : (s.modCounters f).tx = s.tx := rfl
@[simp] theorem modCounters_receiving (f : DeviceCounters → DeviceCounters) : (s.modCounters f).receiving = s.receiving := rfl
@[simp] theorem modCounters_resyncArmed (f : DeviceCounters → DeviceCounters) : (s.modCounters f).resyncArmed = s.resyncArmed := rfl
@[simp] theorem modCounters_resetWait (f : DeviceCounters → DeviceCounters) : (s.modCounters f).resetWait = s.resetWait := rfl
@[simp] theorem modCounters_credit (f : DeviceCounters → DeviceCounters) : (s.modCounters f).credit = s.credit := rfl
@[simp] theorem modCounters_preference (f : DeviceCounters → DeviceCounters) : (s.modCounters f).preference = s.preference := rfl
@[simp] theorem modCounters_placement (f : DeviceCounters → DeviceCounters) : (s.modCounters f).placement = s.placement := rfl
@[simp] theorem modCounters_notices (f : DeviceCounters → DeviceCounters) : (s.modCounters f).notices = s.notices := rfl
@[simp] theorem modCounters_attention (f : DeviceCounters → DeviceCounters) : (s.modCounters f).attention = s.attention := rfl
@[simp] theorem modCounters_mdlRst (f : DeviceCounters → DeviceCounters) : (s.modCounters f).mdlRst = s.mdlRst := rfl
@[simp] theorem modCounters_tenants (f : DeviceCounters → DeviceCounters) : (s.modCounters f).tenants = s.tenants := rfl
@[simp] theorem modCounters_streams (f : DeviceCounters → DeviceCounters) : (s.modCounters f).streams = s.streams := rfl
@[simp] theorem modCounters_lanes (f : DeviceCounters → DeviceCounters) : (s.modCounters f).lanes = s.lanes := rfl
@[simp] theorem modCounters_recency (f : DeviceCounters → DeviceCounters) : (s.modCounters f).recency = s.recency := rfl
@[simp] theorem modCounters_laneWait (f : DeviceCounters → DeviceCounters) : (s.modCounters f).laneWait = s.laneWait := rfl
@[simp] theorem modCounters_parked (f : DeviceCounters → DeviceCounters) : (s.modCounters f).parked = s.parked := rfl
@[simp] theorem modCounters_pools (f : DeviceCounters → DeviceCounters) : (s.modCounters f).pools = s.pools := rfl
@[simp] theorem modCounters_unitWait (f : DeviceCounters → DeviceCounters) : (s.modCounters f).unitWait = s.unitWait := rfl
@[simp] theorem modCounters_dies (f : DeviceCounters → DeviceCounters) : (s.modCounters f).dies = s.dies := rfl
@[simp] theorem modCounters_groupPos (f : DeviceCounters → DeviceCounters) : (s.modCounters f).groupPos = s.groupPos := rfl
@[simp] theorem modCounters_groupPtr (f : DeviceCounters → DeviceCounters) : (s.modCounters f).groupPtr = s.groupPtr := rfl
@[simp] theorem modCounters_ordersSent (f : DeviceCounters → DeviceCounters) : (s.modCounters f).ordersSent = s.ordersSent := rfl
@[simp] theorem modCounters_units (f : DeviceCounters → DeviceCounters) : (s.modCounters f).units = s.units := rfl
@[simp] theorem modCounters_scan (f : DeviceCounters → DeviceCounters) : (s.modCounters f).scan = s.scan := rfl
@[simp] theorem modCounters_working (f : DeviceCounters → DeviceCounters) : (s.modCounters f).working = s.working := rfl
@[simp] theorem modCounters_nominations (f : DeviceCounters → DeviceCounters) : (s.modCounters f).nominations = s.nominations := rfl
@[simp] theorem modCounters_epoch (f : DeviceCounters → DeviceCounters) : (s.modCounters f).epoch = s.epoch := rfl
@[simp] theorem modCounters_epochTimer (f : DeviceCounters → DeviceCounters) : (s.modCounters f).epochTimer = s.epochTimer := rfl
@[simp] theorem modCounters_scanCount (f : DeviceCounters → DeviceCounters) : (s.modCounters f).scanCount = s.scanCount := rfl
@[simp] theorem modCounters_policyHold (f : DeviceCounters → DeviceCounters) : (s.modCounters f).policyHold = s.policyHold := rfl
@[simp] theorem modCounters_lost (f : DeviceCounters → DeviceCounters) : (s.modCounters f).lost = s.lost := rfl
@[simp] theorem modCounters_holdLevel (f : DeviceCounters → DeviceCounters) : (s.modCounters f).holdLevel = s.holdLevel := rfl
@[simp] theorem modCounters_work (f : DeviceCounters → DeviceCounters) : (s.modCounters f).work = s.work := rfl
@[simp] theorem modCounters_pending (f : DeviceCounters → DeviceCounters) : (s.modCounters f).pending = s.pending := rfl
theorem modCounters_counters (f : DeviceCounters → DeviceCounters) : (s.modCounters f).counters = f s.counters := rfl
@[simp] theorem modCounters_tenant (f : DeviceCounters → DeviceCounters) (n : Nat) : (s.modCounters f).tenant n = s.tenant n := rfl
@[simp] theorem modCounters_stream (f : DeviceCounters → DeviceCounters) (n x' : Nat) : (s.modCounters f).stream n x' = s.stream n x' := rfl
@[simp] theorem modCounters_lane (f : DeviceCounters → DeviceCounters) (n : Nat) : (s.modCounters f).lane n = s.lane n := rfl
@[simp] theorem modCounters_unit (f : DeviceCounters → DeviceCounters) (n : Nat) : (s.modCounters f).unit n = s.unit n := rfl
@[simp] theorem modCounters_die (f : DeviceCounters → DeviceCounters) (n : Nat) : (s.modCounters f).die n = s.die n := rfl
@[simp] theorem modCounters_pool (f : DeviceCounters → DeviceCounters) (n : Nat) : (s.modCounters f).pool n = s.pool n := rfl
@[simp] theorem modCounters_pendingSet (f : DeviceCounters → DeviceCounters) (n : Nat) : (s.modCounters f).pendingSet n = s.pendingSet n := rfl

/-! ## reply -/

@[simp] theorem reply_device (tag : BitVec 16) (st : Status) (b : ReplyBody) : (s.reply tag st b).device = s.device := rfl
@[simp] theorem reply_settings (tag : BitVec 16) (st : Status) (b : ReplyBody) : (s.reply tag st b).settings = s.settings := rfl
@[simp] theorem reply_intake (tag : BitVec 16) (st : Status) (b : ReplyBody) : (s.reply tag st b).intake = s.intake := rfl
@[simp] theorem reply_flushes (tag : BitVec 16) (st : Status) (b : ReplyBody) : (s.reply tag st b).flushes = s.flushes := rfl
@[simp] theorem reply_tx (tag : BitVec 16) (st : Status) (b : ReplyBody) : (s.reply tag st b).tx = s.tx := rfl
@[simp] theorem reply_receiving (tag : BitVec 16) (st : Status) (b : ReplyBody) : (s.reply tag st b).receiving = s.receiving := rfl
@[simp] theorem reply_resyncArmed (tag : BitVec 16) (st : Status) (b : ReplyBody) : (s.reply tag st b).resyncArmed = s.resyncArmed := rfl
@[simp] theorem reply_resetWait (tag : BitVec 16) (st : Status) (b : ReplyBody) : (s.reply tag st b).resetWait = s.resetWait := rfl
@[simp] theorem reply_credit (tag : BitVec 16) (st : Status) (b : ReplyBody) : (s.reply tag st b).credit = s.credit := rfl
@[simp] theorem reply_preference (tag : BitVec 16) (st : Status) (b : ReplyBody) : (s.reply tag st b).preference = s.preference := rfl
@[simp] theorem reply_placement (tag : BitVec 16) (st : Status) (b : ReplyBody) : (s.reply tag st b).placement = s.placement := rfl
@[simp] theorem reply_notices (tag : BitVec 16) (st : Status) (b : ReplyBody) : (s.reply tag st b).notices = s.notices := rfl
@[simp] theorem reply_attention (tag : BitVec 16) (st : Status) (b : ReplyBody) : (s.reply tag st b).attention = s.attention := rfl
@[simp] theorem reply_counters (tag : BitVec 16) (st : Status) (b : ReplyBody) : (s.reply tag st b).counters = s.counters := rfl
@[simp] theorem reply_mdlRst (tag : BitVec 16) (st : Status) (b : ReplyBody) : (s.reply tag st b).mdlRst = s.mdlRst := rfl
@[simp] theorem reply_tenants (tag : BitVec 16) (st : Status) (b : ReplyBody) : (s.reply tag st b).tenants = s.tenants := rfl
@[simp] theorem reply_streams (tag : BitVec 16) (st : Status) (b : ReplyBody) : (s.reply tag st b).streams = s.streams := rfl
@[simp] theorem reply_lanes (tag : BitVec 16) (st : Status) (b : ReplyBody) : (s.reply tag st b).lanes = s.lanes := rfl
@[simp] theorem reply_recency (tag : BitVec 16) (st : Status) (b : ReplyBody) : (s.reply tag st b).recency = s.recency := rfl
@[simp] theorem reply_laneWait (tag : BitVec 16) (st : Status) (b : ReplyBody) : (s.reply tag st b).laneWait = s.laneWait := rfl
@[simp] theorem reply_parked (tag : BitVec 16) (st : Status) (b : ReplyBody) : (s.reply tag st b).parked = s.parked := rfl
@[simp] theorem reply_pools (tag : BitVec 16) (st : Status) (b : ReplyBody) : (s.reply tag st b).pools = s.pools := rfl
@[simp] theorem reply_unitWait (tag : BitVec 16) (st : Status) (b : ReplyBody) : (s.reply tag st b).unitWait = s.unitWait := rfl
@[simp] theorem reply_dies (tag : BitVec 16) (st : Status) (b : ReplyBody) : (s.reply tag st b).dies = s.dies := rfl
@[simp] theorem reply_groupPos (tag : BitVec 16) (st : Status) (b : ReplyBody) : (s.reply tag st b).groupPos = s.groupPos := rfl
@[simp] theorem reply_groupPtr (tag : BitVec 16) (st : Status) (b : ReplyBody) : (s.reply tag st b).groupPtr = s.groupPtr := rfl
@[simp] theorem reply_ordersSent (tag : BitVec 16) (st : Status) (b : ReplyBody) : (s.reply tag st b).ordersSent = s.ordersSent := rfl
@[simp] theorem reply_units (tag : BitVec 16) (st : Status) (b : ReplyBody) : (s.reply tag st b).units = s.units := rfl
@[simp] theorem reply_scan (tag : BitVec 16) (st : Status) (b : ReplyBody) : (s.reply tag st b).scan = s.scan := rfl
@[simp] theorem reply_working (tag : BitVec 16) (st : Status) (b : ReplyBody) : (s.reply tag st b).working = s.working := rfl
@[simp] theorem reply_nominations (tag : BitVec 16) (st : Status) (b : ReplyBody) : (s.reply tag st b).nominations = s.nominations := rfl
@[simp] theorem reply_epoch (tag : BitVec 16) (st : Status) (b : ReplyBody) : (s.reply tag st b).epoch = s.epoch := rfl
@[simp] theorem reply_epochTimer (tag : BitVec 16) (st : Status) (b : ReplyBody) : (s.reply tag st b).epochTimer = s.epochTimer := rfl
@[simp] theorem reply_scanCount (tag : BitVec 16) (st : Status) (b : ReplyBody) : (s.reply tag st b).scanCount = s.scanCount := rfl
@[simp] theorem reply_policyHold (tag : BitVec 16) (st : Status) (b : ReplyBody) : (s.reply tag st b).policyHold = s.policyHold := rfl
@[simp] theorem reply_lost (tag : BitVec 16) (st : Status) (b : ReplyBody) : (s.reply tag st b).lost = s.lost := rfl
@[simp] theorem reply_holdLevel (tag : BitVec 16) (st : Status) (b : ReplyBody) : (s.reply tag st b).holdLevel = s.holdLevel := rfl
@[simp] theorem reply_work (tag : BitVec 16) (st : Status) (b : ReplyBody) : (s.reply tag st b).work = s.work := rfl
@[simp] theorem reply_pending (tag : BitVec 16) (st : Status) (b : ReplyBody) : (s.reply tag st b).pending = s.pending := rfl
theorem reply_replies (tag : BitVec 16) (st : Status) (b : ReplyBody) : (s.reply tag st b).replies = s.replies ++ [⟨tag, st, b⟩] := rfl
@[simp] theorem reply_tenant (tag : BitVec 16) (st : Status) (b : ReplyBody) (n : Nat) : (s.reply tag st b).tenant n = s.tenant n := rfl
@[simp] theorem reply_stream (tag : BitVec 16) (st : Status) (b : ReplyBody) (n x' : Nat) : (s.reply tag st b).stream n x' = s.stream n x' := rfl
@[simp] theorem reply_lane (tag : BitVec 16) (st : Status) (b : ReplyBody) (n : Nat) : (s.reply tag st b).lane n = s.lane n := rfl
@[simp] theorem reply_unit (tag : BitVec 16) (st : Status) (b : ReplyBody) (n : Nat) : (s.reply tag st b).unit n = s.unit n := rfl
@[simp] theorem reply_die (tag : BitVec 16) (st : Status) (b : ReplyBody) (n : Nat) : (s.reply tag st b).die n = s.die n := rfl
@[simp] theorem reply_pool (tag : BitVec 16) (st : Status) (b : ReplyBody) (n : Nat) : (s.reply tag st b).pool n = s.pool n := rfl
@[simp] theorem reply_pendingSet (tag : BitVec 16) (st : Status) (b : ReplyBody) (n : Nat) : (s.reply tag st b).pendingSet n = s.pendingSet n := rfl

/-! ## modHead -/

@[simp] theorem modHead_device (t : Nat) (g : Frame → Frame) : (s.modHead t g).device = s.device := rfl
@[simp] theorem modHead_settings (t : Nat) (g : Frame → Frame) : (s.modHead t g).settings = s.settings := rfl
@[simp] theorem modHead_flushes (t : Nat) (g : Frame → Frame) : (s.modHead t g).flushes = s.flushes := rfl
@[simp] theorem modHead_replies (t : Nat) (g : Frame → Frame) : (s.modHead t g).replies = s.replies := rfl
@[simp] theorem modHead_tx (t : Nat) (g : Frame → Frame) : (s.modHead t g).tx = s.tx := rfl
@[simp] theorem modHead_receiving (t : Nat) (g : Frame → Frame) : (s.modHead t g).receiving = s.receiving := rfl
@[simp] theorem modHead_resyncArmed (t : Nat) (g : Frame → Frame) : (s.modHead t g).resyncArmed = s.resyncArmed := rfl
@[simp] theorem modHead_resetWait (t : Nat) (g : Frame → Frame) : (s.modHead t g).resetWait = s.resetWait := rfl
@[simp] theorem modHead_credit (t : Nat) (g : Frame → Frame) : (s.modHead t g).credit = s.credit := rfl
@[simp] theorem modHead_preference (t : Nat) (g : Frame → Frame) : (s.modHead t g).preference = s.preference := rfl
@[simp] theorem modHead_placement (t : Nat) (g : Frame → Frame) : (s.modHead t g).placement = s.placement := rfl
@[simp] theorem modHead_notices (t : Nat) (g : Frame → Frame) : (s.modHead t g).notices = s.notices := rfl
@[simp] theorem modHead_attention (t : Nat) (g : Frame → Frame) : (s.modHead t g).attention = s.attention := rfl
@[simp] theorem modHead_counters (t : Nat) (g : Frame → Frame) : (s.modHead t g).counters = s.counters := rfl
@[simp] theorem modHead_mdlRst (t : Nat) (g : Frame → Frame) : (s.modHead t g).mdlRst = s.mdlRst := rfl
@[simp] theorem modHead_tenants (t : Nat) (g : Frame → Frame) : (s.modHead t g).tenants = s.tenants := rfl
@[simp] theorem modHead_streams (t : Nat) (g : Frame → Frame) : (s.modHead t g).streams = s.streams := rfl
@[simp] theorem modHead_lanes (t : Nat) (g : Frame → Frame) : (s.modHead t g).lanes = s.lanes := rfl
@[simp] theorem modHead_recency (t : Nat) (g : Frame → Frame) : (s.modHead t g).recency = s.recency := rfl
@[simp] theorem modHead_laneWait (t : Nat) (g : Frame → Frame) : (s.modHead t g).laneWait = s.laneWait := rfl
@[simp] theorem modHead_parked (t : Nat) (g : Frame → Frame) : (s.modHead t g).parked = s.parked := rfl
@[simp] theorem modHead_pools (t : Nat) (g : Frame → Frame) : (s.modHead t g).pools = s.pools := rfl
@[simp] theorem modHead_unitWait (t : Nat) (g : Frame → Frame) : (s.modHead t g).unitWait = s.unitWait := rfl
@[simp] theorem modHead_dies (t : Nat) (g : Frame → Frame) : (s.modHead t g).dies = s.dies := rfl
@[simp] theorem modHead_groupPos (t : Nat) (g : Frame → Frame) : (s.modHead t g).groupPos = s.groupPos := rfl
@[simp] theorem modHead_groupPtr (t : Nat) (g : Frame → Frame) : (s.modHead t g).groupPtr = s.groupPtr := rfl
@[simp] theorem modHead_ordersSent (t : Nat) (g : Frame → Frame) : (s.modHead t g).ordersSent = s.ordersSent := rfl
@[simp] theorem modHead_units (t : Nat) (g : Frame → Frame) : (s.modHead t g).units = s.units := rfl
@[simp] theorem modHead_scan (t : Nat) (g : Frame → Frame) : (s.modHead t g).scan = s.scan := rfl
@[simp] theorem modHead_working (t : Nat) (g : Frame → Frame) : (s.modHead t g).working = s.working := rfl
@[simp] theorem modHead_nominations (t : Nat) (g : Frame → Frame) : (s.modHead t g).nominations = s.nominations := rfl
@[simp] theorem modHead_epoch (t : Nat) (g : Frame → Frame) : (s.modHead t g).epoch = s.epoch := rfl
@[simp] theorem modHead_epochTimer (t : Nat) (g : Frame → Frame) : (s.modHead t g).epochTimer = s.epochTimer := rfl
@[simp] theorem modHead_scanCount (t : Nat) (g : Frame → Frame) : (s.modHead t g).scanCount = s.scanCount := rfl
@[simp] theorem modHead_policyHold (t : Nat) (g : Frame → Frame) : (s.modHead t g).policyHold = s.policyHold := rfl
@[simp] theorem modHead_lost (t : Nat) (g : Frame → Frame) : (s.modHead t g).lost = s.lost := rfl
@[simp] theorem modHead_holdLevel (t : Nat) (g : Frame → Frame) : (s.modHead t g).holdLevel = s.holdLevel := rfl
@[simp] theorem modHead_work (t : Nat) (g : Frame → Frame) : (s.modHead t g).work = s.work := rfl
@[simp] theorem modHead_pending (t : Nat) (g : Frame → Frame) : (s.modHead t g).pending = s.pending := rfl
theorem modHead_intake (t : Nat) (g : Frame → Frame) : (s.modHead t g).intake = modFirst t g s.intake := rfl
@[simp] theorem modHead_tenant (t : Nat) (g : Frame → Frame) (n : Nat) : (s.modHead t g).tenant n = s.tenant n := rfl
@[simp] theorem modHead_stream (t : Nat) (g : Frame → Frame) (n x' : Nat) : (s.modHead t g).stream n x' = s.stream n x' := rfl
@[simp] theorem modHead_lane (t : Nat) (g : Frame → Frame) (n : Nat) : (s.modHead t g).lane n = s.lane n := rfl
@[simp] theorem modHead_unit (t : Nat) (g : Frame → Frame) (n : Nat) : (s.modHead t g).unit n = s.unit n := rfl
@[simp] theorem modHead_die (t : Nat) (g : Frame → Frame) (n : Nat) : (s.modHead t g).die n = s.die n := rfl
@[simp] theorem modHead_pool (t : Nat) (g : Frame → Frame) (n : Nat) : (s.modHead t g).pool n = s.pool n := rfl
@[simp] theorem modHead_pendingSet (t : Nat) (g : Frame → Frame) (n : Nat) : (s.modHead t g).pendingSet n = s.pendingSet n := rfl

/-! ## dropHead -/

@[simp] theorem dropHead_device (t : Nat) : (s.dropHead t).device = s.device := rfl
@[simp] theorem dropHead_settings (t : Nat) : (s.dropHead t).settings = s.settings := rfl
@[simp] theorem dropHead_flushes (t : Nat) : (s.dropHead t).flushes = s.flushes := rfl
@[simp] theorem dropHead_replies (t : Nat) : (s.dropHead t).replies = s.replies := rfl
@[simp] theorem dropHead_tx (t : Nat) : (s.dropHead t).tx = s.tx := rfl
@[simp] theorem dropHead_receiving (t : Nat) : (s.dropHead t).receiving = s.receiving := rfl
@[simp] theorem dropHead_resyncArmed (t : Nat) : (s.dropHead t).resyncArmed = s.resyncArmed := rfl
@[simp] theorem dropHead_resetWait (t : Nat) : (s.dropHead t).resetWait = s.resetWait := rfl
@[simp] theorem dropHead_credit (t : Nat) : (s.dropHead t).credit = s.credit := rfl
@[simp] theorem dropHead_preference (t : Nat) : (s.dropHead t).preference = s.preference := rfl
@[simp] theorem dropHead_placement (t : Nat) : (s.dropHead t).placement = s.placement := rfl
@[simp] theorem dropHead_notices (t : Nat) : (s.dropHead t).notices = s.notices := rfl
@[simp] theorem dropHead_attention (t : Nat) : (s.dropHead t).attention = s.attention := rfl
@[simp] theorem dropHead_counters (t : Nat) : (s.dropHead t).counters = s.counters := rfl
@[simp] theorem dropHead_mdlRst (t : Nat) : (s.dropHead t).mdlRst = s.mdlRst := rfl
@[simp] theorem dropHead_tenants (t : Nat) : (s.dropHead t).tenants = s.tenants := rfl
@[simp] theorem dropHead_streams (t : Nat) : (s.dropHead t).streams = s.streams := rfl
@[simp] theorem dropHead_lanes (t : Nat) : (s.dropHead t).lanes = s.lanes := rfl
@[simp] theorem dropHead_recency (t : Nat) : (s.dropHead t).recency = s.recency := rfl
@[simp] theorem dropHead_laneWait (t : Nat) : (s.dropHead t).laneWait = s.laneWait := rfl
@[simp] theorem dropHead_parked (t : Nat) : (s.dropHead t).parked = s.parked := rfl
@[simp] theorem dropHead_pools (t : Nat) : (s.dropHead t).pools = s.pools := rfl
@[simp] theorem dropHead_unitWait (t : Nat) : (s.dropHead t).unitWait = s.unitWait := rfl
@[simp] theorem dropHead_dies (t : Nat) : (s.dropHead t).dies = s.dies := rfl
@[simp] theorem dropHead_groupPos (t : Nat) : (s.dropHead t).groupPos = s.groupPos := rfl
@[simp] theorem dropHead_groupPtr (t : Nat) : (s.dropHead t).groupPtr = s.groupPtr := rfl
@[simp] theorem dropHead_ordersSent (t : Nat) : (s.dropHead t).ordersSent = s.ordersSent := rfl
@[simp] theorem dropHead_units (t : Nat) : (s.dropHead t).units = s.units := rfl
@[simp] theorem dropHead_scan (t : Nat) : (s.dropHead t).scan = s.scan := rfl
@[simp] theorem dropHead_working (t : Nat) : (s.dropHead t).working = s.working := rfl
@[simp] theorem dropHead_nominations (t : Nat) : (s.dropHead t).nominations = s.nominations := rfl
@[simp] theorem dropHead_epoch (t : Nat) : (s.dropHead t).epoch = s.epoch := rfl
@[simp] theorem dropHead_epochTimer (t : Nat) : (s.dropHead t).epochTimer = s.epochTimer := rfl
@[simp] theorem dropHead_scanCount (t : Nat) : (s.dropHead t).scanCount = s.scanCount := rfl
@[simp] theorem dropHead_policyHold (t : Nat) : (s.dropHead t).policyHold = s.policyHold := rfl
@[simp] theorem dropHead_lost (t : Nat) : (s.dropHead t).lost = s.lost := rfl
@[simp] theorem dropHead_holdLevel (t : Nat) : (s.dropHead t).holdLevel = s.holdLevel := rfl
@[simp] theorem dropHead_work (t : Nat) : (s.dropHead t).work = s.work := rfl
@[simp] theorem dropHead_pending (t : Nat) : (s.dropHead t).pending = s.pending := rfl
theorem dropHead_intake (t : Nat) : (s.dropHead t).intake = s.intake.eraseP (fun f => f.tenant = t) := rfl
@[simp] theorem dropHead_tenant (t : Nat) (n : Nat) : (s.dropHead t).tenant n = s.tenant n := rfl
@[simp] theorem dropHead_stream (t : Nat) (n x' : Nat) : (s.dropHead t).stream n x' = s.stream n x' := rfl
@[simp] theorem dropHead_lane (t : Nat) (n : Nat) : (s.dropHead t).lane n = s.lane n := rfl
@[simp] theorem dropHead_unit (t : Nat) (n : Nat) : (s.dropHead t).unit n = s.unit n := rfl
@[simp] theorem dropHead_die (t : Nat) (n : Nat) : (s.dropHead t).die n = s.die n := rfl
@[simp] theorem dropHead_pool (t : Nat) (n : Nat) : (s.dropHead t).pool n = s.pool n := rfl
@[simp] theorem dropHead_pendingSet (t : Nat) (n : Nat) : (s.dropHead t).pendingSet n = s.pendingSet n := rfl

/-! ## noteRx -/

@[simp] theorem noteRx_device : s.noteRx.device = s.device := rfl
@[simp] theorem noteRx_settings : s.noteRx.settings = s.settings := rfl
@[simp] theorem noteRx_intake : s.noteRx.intake = s.intake := rfl
@[simp] theorem noteRx_flushes : s.noteRx.flushes = s.flushes := rfl
@[simp] theorem noteRx_replies : s.noteRx.replies = s.replies := rfl
@[simp] theorem noteRx_tx : s.noteRx.tx = s.tx := rfl
@[simp] theorem noteRx_receiving : s.noteRx.receiving = none := rfl
@[simp] theorem noteRx_resyncArmed : s.noteRx.resyncArmed = s.resyncArmed := rfl
@[simp] theorem noteRx_resetWait : s.noteRx.resetWait = s.resetWait := rfl
@[simp] theorem noteRx_credit : s.noteRx.credit = s.credit := rfl
@[simp] theorem noteRx_preference : s.noteRx.preference = s.preference := rfl
@[simp] theorem noteRx_placement : s.noteRx.placement = s.placement := rfl
@[simp] theorem noteRx_notices : s.noteRx.notices = s.notices := rfl
@[simp] theorem noteRx_attention : s.noteRx.attention = s.attention := rfl
@[simp] theorem noteRx_counters : s.noteRx.counters = s.counters := rfl
@[simp] theorem noteRx_mdlRst : s.noteRx.mdlRst = s.mdlRst := rfl
@[simp] theorem noteRx_tenants : s.noteRx.tenants = s.tenants := rfl
@[simp] theorem noteRx_streams : s.noteRx.streams = s.streams := rfl
@[simp] theorem noteRx_lanes : s.noteRx.lanes = s.lanes := rfl
@[simp] theorem noteRx_recency : s.noteRx.recency = s.recency := rfl
@[simp] theorem noteRx_laneWait : s.noteRx.laneWait = s.laneWait := rfl
@[simp] theorem noteRx_parked : s.noteRx.parked = s.parked := rfl
@[simp] theorem noteRx_pools : s.noteRx.pools = s.pools := rfl
@[simp] theorem noteRx_unitWait : s.noteRx.unitWait = s.unitWait := rfl
@[simp] theorem noteRx_dies : s.noteRx.dies = s.dies := rfl
@[simp] theorem noteRx_groupPos : s.noteRx.groupPos = s.groupPos := rfl
@[simp] theorem noteRx_groupPtr : s.noteRx.groupPtr = s.groupPtr := rfl
@[simp] theorem noteRx_ordersSent : s.noteRx.ordersSent = s.ordersSent := rfl
@[simp] theorem noteRx_units : s.noteRx.units = s.units := rfl
@[simp] theorem noteRx_scan : s.noteRx.scan = s.scan := rfl
@[simp] theorem noteRx_working : s.noteRx.working = s.working := rfl
@[simp] theorem noteRx_nominations : s.noteRx.nominations = s.nominations := rfl
@[simp] theorem noteRx_epoch : s.noteRx.epoch = s.epoch := rfl
@[simp] theorem noteRx_epochTimer : s.noteRx.epochTimer = s.epochTimer := rfl
@[simp] theorem noteRx_scanCount : s.noteRx.scanCount = s.scanCount := rfl
@[simp] theorem noteRx_policyHold : s.noteRx.policyHold = s.policyHold := rfl
@[simp] theorem noteRx_lost : s.noteRx.lost = s.lost := rfl
@[simp] theorem noteRx_holdLevel : s.noteRx.holdLevel = s.holdLevel := rfl
@[simp] theorem noteRx_work : s.noteRx.work = s.work := rfl
@[simp] theorem noteRx_pending : s.noteRx.pending = s.pending := rfl
@[simp] theorem noteRx_tenant (n : Nat) : s.noteRx.tenant n = s.tenant n := rfl
@[simp] theorem noteRx_stream (n x' : Nat) : s.noteRx.stream n x' = s.stream n x' := rfl
@[simp] theorem noteRx_lane (n : Nat) : s.noteRx.lane n = s.lane n := rfl
@[simp] theorem noteRx_unit (n : Nat) : s.noteRx.unit n = s.unit n := rfl
@[simp] theorem noteRx_die (n : Nat) : s.noteRx.die n = s.die n := rfl
@[simp] theorem noteRx_pool (n : Nat) : s.noteRx.pool n = s.pool n := rfl
@[simp] theorem noteRx_pendingSet (n : Nat) : s.noteRx.pendingSet n = s.pendingSet n := rfl

/-! ## Reading back what was written -/

theorem setTenant_tenant (t : Nat) (v : Tenant) (n : Nat) :
    (s.setTenant t v).tenant n = if n = t then v else s.tenant n := rowOf_putRow _ _ _ _ _

theorem setStream_stream (t x : Nat) (v : StreamCtx) (n y : Nat) :
    (s.setStream t x v).stream n y = if streamKey n y = streamKey t x then v else s.stream n y := rowOf_putRow _ _ _ _ _

theorem setLane_lane (l : Nat) (v : Lane) (n : Nat) :
    (s.setLane l v).lane n = if n = l then v else s.lane n := rowOf_putRow _ _ _ _ _

theorem setUnit_unit (u : Nat) (v : UnitRec) (n : Nat) :
    (s.setUnit u v).unit n = if n = u then v else s.unit n := rowOf_putRow _ _ _ _ _

theorem setDie_die (d : Nat) (v : Die) (n : Nat) :
    (s.setDie d v).die n = if n = d then v else s.die n := rowOf_putRow _ _ _ _ _

theorem setPool_pool (g : Nat) (v : List Nat) (n : Nat) :
    (s.setPool g v).pool n = if n = g then v else s.pool n := rowOf_putRow _ _ _ _ _

theorem setPendingSet_pendingSet (src : Nat) (v : List NoticeEntry) (n : Nat) :
    (s.setPendingSet src v).pendingSet n = if n = src then v else s.pendingSet n := rowOf_putRow _ _ _ _ _

theorem modTenant_tenant (t : Nat) (f : Tenant → Tenant) (n : Nat) :
    (s.modTenant t f).tenant n = if n = t then f (s.tenant t) else s.tenant n := rowOf_putRow _ _ _ _ _

theorem modLane_lane (l : Nat) (f : Lane → Lane) (n : Nat) :
    (s.modLane l f).lane n = if n = l then f (s.lane l) else s.lane n := rowOf_putRow _ _ _ _ _

theorem modUnit_unit (u : Nat) (f : UnitRec → UnitRec) (n : Nat) :
    (s.modUnit u f).unit n = if n = u then f (s.unit u) else s.unit n := rowOf_putRow _ _ _ _ _

theorem modDie_die (d : Nat) (f : Die → Die) (n : Nat) :
    (s.modDie d f).die n = if n = d then f (s.die d) else s.die n := rowOf_putRow _ _ _ _ _

theorem modStream_stream (t x : Nat) (f : StreamCtx → StreamCtx) (n y : Nat) :
    (s.modStream t x f).stream n y = if streamKey n y = streamKey t x then f (s.stream t x) else s.stream n y :=
  rowOf_putRow _ _ _ _ _

theorem modTenantCounters_tenant (t : Nat) (f : TenantCounters → TenantCounters) (n : Nat) :
    (s.modTenantCounters t f).tenant n =
      if n = t then { s.tenant t with counters := f (s.tenant t).counters } else s.tenant n := rowOf_putRow _ _ _ _ _

theorem modHalf_lane (l : Nat) (h : HalfId) (f : Half → Half) (n : Nat) :
    (s.modHalf l h f).lane n = if n = l then (s.lane l).setHalf h (f ((s.lane l).half h)) else s.lane n :=
  rowOf_putRow _ _ _ _ _

theorem half_setHalf (v : Lane) (h k : HalfId) (w : Half) :
    (v.setHalf h w).half k = if k = h then w else v.half k := by
  cases h <;> cases k <;> rfl

/-- A half after another, or the same, half has been changed. -/
theorem modHalf_half (l : Nat) (h : HalfId) (f : Half → Half) (n : Nat) (k : HalfId) :
    (s.modHalf l h f).half n k = if n = l ∧ k = h then f (s.half l h) else s.half n k := by
  unfold State.half
  rw [modHalf_lane]
  by_cases e : n = l
  · subst e
    simp [half_setHalf]
  · simp [e]

end Sys2Proof.Machine
end

