-- ==== Sys2Proof/Laws/Moves.lean ====
section
/-! SUPPORT. The moves that the internal events of a command are made of. A property closed under the moves is kept by
every internal event (Laws/Work.lean), so a property is proved of them once, move by move. -/

namespace Sys2Proof.Machine

/-- A tenant context rewritten by an internal event: what it keeps. -/
structure TenantMove (v w : Tenant) : Prop where
  active : w.active = v.active
  balance : w.credit = v.credit
  accepted : w.counters.accepted = v.counters.accepted
  placed : w.counters.placed = v.counters.placed
  mapClamps : w.counters.mapClamps = v.counters.mapClamps
  state : w.state = v.state
  pendingPolicy : w.pendingPolicy = v.pendingPolicy
  watch : w.watch = v.watch
  inRange : v.InRange → w.InRange

/-- A stream context rewritten by an internal event. -/
structure StreamMove (v w : StreamCtx) : Prop where
  accepted : w.accepted = v.accepted
  placed : w.placed = v.placed

/-- A unit record rewritten by an internal event. -/
structure UnitMove (r q : UnitRec) : Prop where
  valid : q.valid = r.valid
  programmed : q.programmed = r.programmed
  sealEpoch : q.sealEpoch = r.sealEpoch
  failed : q.failed = r.failed
  settled : r.state.isSettled = true → q.state = r.state ∧ q.owner = r.owner
  unsettled : r.state.isSettled = false → q.state.isSettled = false
  stillOpen : r.isOpen = true → q.isOpen = true

/-- A property that every move of an internal event keeps. -/
structure Closed (P : State → Prop) : Prop where
  setTenant : ∀ {s : State} {t v}, TenantMove (s.tenant t) v → P s → P (s.setTenant t v)
  /-- a tenant with a frame queued is charged, or its charge is returned -/
  setCredit : ∀ {s : State} {t n}, s.queueOf t ≠ [] →
    n ≤ (s.tenant t).credit ∨ n ≤ 2 * (s.tenant t).active.allowance → P s →
    P (s.setTenant t { s.tenant t with credit := n })
  setStream : ∀ {s : State} {t x v}, StreamMove (s.stream t x) v → P s → P (s.setStream t x v)
  setLane : ∀ {s : State} {l v}, v.failRun = (s.lane l).failRun → P s → P (s.setLane l v)
  setUnit : ∀ {s : State} {u v}, UnitMove (s.unit u) v → P s → P (s.setUnit u v)
  setDie : ∀ {s : State} {d v}, P s → P (s.setDie d v)
  setPool : ∀ {s : State} {g v}, P s → P (s.setPool g v)
  recency : ∀ {s : State} {l}, P s → P { s with recency := l }
  laneWait : ∀ {s : State} {l}, P s → P { s with laneWait := l }
  parked : ∀ {s : State} {n}, P s → P { s with parked := n }
  unitWait : ∀ {s : State} {l}, P s → P { s with unitWait := l }
  work : ∀ {s : State} {w}, P s → P { s with work := w }
  ordersSent : ∀ {s : State} {l}, P s → P { s with ordersSent := l }
  /-- an order is sent -/
  sent : ∀ {s : State} {g n l}, P s →
    P { s with groupPos := putRow 0 s.groupPos g n, ordersSent := l, mdlRst := false }
  reserved : ∀ {s : State} {l h}, s.placement.length < Config.placementEntries → P s →
    P { s with placement := s.placement ++ [.reserved l h] }
  /-- a scan that low water triggers -/
  scan : ∀ {s : State} {sc}, s.settings.trigger = .supplyLow → P s → P { s with scan := sc, working := [] }
  triggerIgnored : ∀ {s : State}, P s →
    P (s.modCounters (fun c => { c with triggersIgnored := bump c.triggersIgnored 1 }))
  post : ∀ {s : State} {src kind d}, kind.isInternal = true → P s → P (s.post src kind d)
  modHead : ∀ {s : State} {t g}, (∀ f, SameFrame f (g f)) → P s → P (s.modHead t g)
  leave : ∀ {s : State} {p : Frame → Bool} {rs : List Reply}, rs.length = (s.intake.filter p).length →
    (∀ f ∈ s.intake.filter p, ∃ r ∈ rs, r.tag = f.tag) → P s →
    P { s with intake := s.intake.filter (fun f => !p f), replies := s.replies ++ rs }

/-- A property that the end of a hold-up flush and the completion of a drain keep as well. -/
structure ClosedToEnd (P : State → Prop) : Prop extends Closed P where
  /-- a drain is complete (R173) -/
  removed : ∀ {s : State} {t}, (s.tenant t).state = .draining → P s →
    P (s.setTenant t { s.tenant t with state := .removed, drain := none })
  /-- a REMOVED tenant becomes VACANT (R22) -/
  vacant : ∀ {s : State} {t}, (s.tenant t).state = .removed → P s →
    P (s.setTenant t
      { s.tenant t with state := .vacant, pendingPolicy := none, watch := ⟨0, .none⟩, drain := none })
  endHolding : ∀ {s : State} {dev timer}, s.device = .holding → P s → P { s with device := dev, epochTimer := timer }
  /-- the part runs again with a scan -/
  resumeScan : ∀ {s : State} {dev timer sc}, s.device = .holding → P s →
    P { s with device := dev, epochTimer := timer, scan := sc, working := [] }

/-- A property that the loss of halves in a hold and the completion of a half keep as well (R84, R180, R107). -/
structure ClosedToLoss (P : State → Prop) : Prop extends Closed P where
  lowerFlush : ∀ {s : State} {lost slot}, P s → P (State.lowerFlush lost s slot)
  countLost : ∀ {s : State} {n}, P s →
    P (({ s with lost := bump s.lost n } : State).modCounters
      (fun c => { c with sectorsLost := bump c.sectorsLost n }))
  dropEntries : ∀ {s : State} {p}, P s → P { s with placement := s.placement.filter p }
  groupPtr : ∀ {s : State} {n}, P s → P { s with groupPtr := n }
  /-- entry to HOLDING abandons a scan -/
  abandon : ∀ {s : State}, s.device = .holding → P s → P { s with scan := none, working := [] }

variable {P : State → Prop}

/-- A fold of a closed function over a list. -/
theorem foldl_closed {α : Type} {f : State → α → State} (hf : ∀ s a, P s → P (f s a)) (l : List α) {s : State}
    (h : P s) : P (l.foldl f s) := by
  induction l generalizing s with
  | nil => exact h
  | cons a rest ih => exact ih (hf s a h)

/-- A choice between two states that both have the property. -/
theorem ite_keeps {c : Prop} [Decidable c] {s t : State} (hs : P s) (ht : P t) : P (if c then s else t) := by
  split
  · exact hs
  · exact ht

namespace Closed

theorem modTenant (c : Closed P) {s : State} {t f} (hf : ∀ v, TenantMove v (f v)) (h : P s) : P (s.modTenant t f) :=
  c.setTenant (hf _) h

theorem modStream (c : Closed P) {s : State} {t x f} (hf : ∀ v, StreamMove v (f v)) (h : P s) :
    P (s.modStream t x f) := c.setStream (hf _) h

theorem modLane (c : Closed P) {s : State} {l f} (hf : ∀ v : Lane, (f v).failRun = v.failRun) (h : P s) :
    P (s.modLane l f) := c.setLane (hf _) h

theorem modUnit (c : Closed P) {s : State} {u f} (hf : ∀ r, UnitMove r (f r)) (h : P s) : P (s.modUnit u f) :=
  c.setUnit (hf _) h

theorem modDie (c : Closed P) {s : State} {d f} (h : P s) : P (s.modDie d f) := c.setDie h

theorem modHalf (c : Closed P) {s : State} {l k f} (h : P s) : P (s.modHalf l k f) :=
  c.modLane (fun v => by cases k <;> rfl) h

theorem raiseHead (c : Closed P) {s : State} {t} (h : P s) : P (s.raiseHead t) := c.work h
theorem raiseService (c : Closed P) {s : State} (h : P s) : P s.raiseService := c.work h
theorem raiseCheck (c : Closed P) {s : State} (h : P s) : P s.raiseCheck := c.work h
theorem raiseFreed (c : Closed P) {s : State} {l} (h : P s) : P (s.raiseFreed l) := c.work h

end Closed

/-- Two properties at once. -/
theorem Closed.and {P Q : State → Prop} (c : Closed P) (d : Closed Q) : Closed (fun s => P s ∧ Q s) where
  setTenant m h := ⟨c.setTenant m h.1, d.setTenant m h.2⟩
  setCredit hq hn h := ⟨c.setCredit hq hn h.1, d.setCredit hq hn h.2⟩
  setStream m h := ⟨c.setStream m h.1, d.setStream m h.2⟩
  setLane m h := ⟨c.setLane m h.1, d.setLane m h.2⟩
  setUnit m h := ⟨c.setUnit m h.1, d.setUnit m h.2⟩
  setDie h := ⟨c.setDie h.1, d.setDie h.2⟩
  setPool h := ⟨c.setPool h.1, d.setPool h.2⟩
  recency h := ⟨c.recency h.1, d.recency h.2⟩
  laneWait h := ⟨c.laneWait h.1, d.laneWait h.2⟩
  parked h := ⟨c.parked h.1, d.parked h.2⟩
  unitWait h := ⟨c.unitWait h.1, d.unitWait h.2⟩
  work h := ⟨c.work h.1, d.work h.2⟩
  ordersSent h := ⟨c.ordersSent h.1, d.ordersSent h.2⟩
  sent h := ⟨c.sent h.1, d.sent h.2⟩
  reserved hr h := ⟨c.reserved hr h.1, d.reserved hr h.2⟩
  scan ht h := ⟨c.scan ht h.1, d.scan ht h.2⟩
  triggerIgnored h := ⟨c.triggerIgnored h.1, d.triggerIgnored h.2⟩
  post hk h := ⟨c.post hk h.1, d.post hk h.2⟩
  modHead hg h := ⟨c.modHead hg h.1, d.modHead hg h.2⟩
  leave hl hr h := ⟨c.leave hl hr h.1, d.leave hl hr h.2⟩

/-- What posting a notice leaves alone: everything but the pending sets and the attention list (R11). -/
theorem post_eq (s : State) (src : Nat) (kind : NoticeKind) (d : BitVec 32) :
    ∃ n a, s.post src kind d = { s with notices := n, attention := a } := by
  unfold State.post
  dsimp only
  split
  · exact ⟨_, _, rfl⟩
  · split <;> exact ⟨_, _, rfl⟩

@[simp] theorem post_device (s : State) (src : Nat) (kind : NoticeKind) (d : BitVec 32) :
    (s.post src kind d).device = s.device := by
  obtain ⟨n, a, e⟩ := post_eq s src kind d
  rw [e]

@[simp] theorem post_settings (s : State) (src : Nat) (kind : NoticeKind) (d : BitVec 32) :
    (s.post src kind d).settings = s.settings := by
  obtain ⟨n, a, e⟩ := post_eq s src kind d
  rw [e]

@[simp] theorem post_intake (s : State) (src : Nat) (kind : NoticeKind) (d : BitVec 32) :
    (s.post src kind d).intake = s.intake := by
  obtain ⟨n, a, e⟩ := post_eq s src kind d
  rw [e]

@[simp] theorem post_flushes (s : State) (src : Nat) (kind : NoticeKind) (d : BitVec 32) :
    (s.post src kind d).flushes = s.flushes := by
  obtain ⟨n, a, e⟩ := post_eq s src kind d
  rw [e]

@[simp] theorem post_replies (s : State) (src : Nat) (kind : NoticeKind) (d : BitVec 32) :
    (s.post src kind d).replies = s.replies := by
  obtain ⟨n, a, e⟩ := post_eq s src kind d
  rw [e]

@[simp] theorem post_tx (s : State) (src : Nat) (kind : NoticeKind) (d : BitVec 32) :
    (s.post src kind d).tx = s.tx := by
  obtain ⟨n, a, e⟩ := post_eq s src kind d
  rw [e]

@[simp] theorem post_receiving (s : State) (src : Nat) (kind : NoticeKind) (d : BitVec 32) :
    (s.post src kind d).receiving = s.receiving := by
  obtain ⟨n, a, e⟩ := post_eq s src kind d
  rw [e]

@[simp] theorem post_resyncArmed (s : State) (src : Nat) (kind : NoticeKind) (d : BitVec 32) :
    (s.post src kind d).resyncArmed = s.resyncArmed := by
  obtain ⟨n, a, e⟩ := post_eq s src kind d
  rw [e]

@[simp] theorem post_resetWait (s : State) (src : Nat) (kind : NoticeKind) (d : BitVec 32) :
    (s.post src kind d).resetWait = s.resetWait := by
  obtain ⟨n, a, e⟩ := post_eq s src kind d
  rw [e]

@[simp] theorem post_credit (s : State) (src : Nat) (kind : NoticeKind) (d : BitVec 32) :
    (s.post src kind d).credit = s.credit := by
  obtain ⟨n, a, e⟩ := post_eq s src kind d
  rw [e]

@[simp] theorem post_preference (s : State) (src : Nat) (kind : NoticeKind) (d : BitVec 32) :
    (s.post src kind d).preference = s.preference := by
  obtain ⟨n, a, e⟩ := post_eq s src kind d
  rw [e]

@[simp] theorem post_placement (s : State) (src : Nat) (kind : NoticeKind) (d : BitVec 32) :
    (s.post src kind d).placement = s.placement := by
  obtain ⟨n, a, e⟩ := post_eq s src kind d
  rw [e]

@[simp] theorem post_counters (s : State) (src : Nat) (kind : NoticeKind) (d : BitVec 32) :
    (s.post src kind d).counters = s.counters := by
  obtain ⟨n, a, e⟩ := post_eq s src kind d
  rw [e]

@[simp] theorem post_mdlRst (s : State) (src : Nat) (kind : NoticeKind) (d : BitVec 32) :
    (s.post src kind d).mdlRst = s.mdlRst := by
  obtain ⟨n, a, e⟩ := post_eq s src kind d
  rw [e]

@[simp] theorem post_tenants (s : State) (src : Nat) (kind : NoticeKind) (d : BitVec 32) :
    (s.post src kind d).tenants = s.tenants := by
  obtain ⟨n, a, e⟩ := post_eq s src kind d
  rw [e]

@[simp] theorem post_streams (s : State) (src : Nat) (kind : NoticeKind) (d : BitVec 32) :
    (s.post src kind d).streams = s.streams := by
  obtain ⟨n, a, e⟩ := post_eq s src kind d
  rw [e]

@[simp] theorem post_lanes (s : State) (src : Nat) (kind : NoticeKind) (d : BitVec 32) :
    (s.post src kind d).lanes = s.lanes := by
  obtain ⟨n, a, e⟩ := post_eq s src kind d
  rw [e]

@[simp] theorem post_recency (s : State) (src : Nat) (kind : NoticeKind) (d : BitVec 32) :
    (s.post src kind d).recency = s.recency := by
  obtain ⟨n, a, e⟩ := post_eq s src kind d
  rw [e]

@[simp] theorem post_laneWait (s : State) (src : Nat) (kind : NoticeKind) (d : BitVec 32) :
    (s.post src kind d).laneWait = s.laneWait := by
  obtain ⟨n, a, e⟩ := post_eq s src kind d
  rw [e]

@[simp] theorem post_parked (s : State) (src : Nat) (kind : NoticeKind) (d : BitVec 32) :
    (s.post src kind d).parked = s.parked := by
  obtain ⟨n, a, e⟩ := post_eq s src kind d
  rw [e]

@[simp] theorem post_pools (s : State) (src : Nat) (kind : NoticeKind) (d : BitVec 32) :
    (s.post src kind d).pools = s.pools := by
  obtain ⟨n, a, e⟩ := post_eq s src kind d
  rw [e]

@[simp] theorem post_unitWait (s : State) (src : Nat) (kind : NoticeKind) (d : BitVec 32) :
    (s.post src kind d).unitWait = s.unitWait := by
  obtain ⟨n, a, e⟩ := post_eq s src kind d
  rw [e]

@[simp] theorem post_dies (s : State) (src : Nat) (kind : NoticeKind) (d : BitVec 32) :
    (s.post src kind d).dies = s.dies := by
  obtain ⟨n, a, e⟩ := post_eq s src kind d
  rw [e]

@[simp] theorem post_groupPos (s : State) (src : Nat) (kind : NoticeKind) (d : BitVec 32) :
    (s.post src kind d).groupPos = s.groupPos := by
  obtain ⟨n, a, e⟩ := post_eq s src kind d
  rw [e]

@[simp] theorem post_groupPtr (s : State) (src : Nat) (kind : NoticeKind) (d : BitVec 32) :
    (s.post src kind d).groupPtr = s.groupPtr := by
  obtain ⟨n, a, e⟩ := post_eq s src kind d
  rw [e]

@[simp] theorem post_ordersSent (s : State) (src : Nat) (kind : NoticeKind) (d : BitVec 32) :
    (s.post src kind d).ordersSent = s.ordersSent := by
  obtain ⟨n, a, e⟩ := post_eq s src kind d
  rw [e]

@[simp] theorem post_units (s : State) (src : Nat) (kind : NoticeKind) (d : BitVec 32) :
    (s.post src kind d).units = s.units := by
  obtain ⟨n, a, e⟩ := post_eq s src kind d
  rw [e]

@[simp] theorem post_scan (s : State) (src : Nat) (kind : NoticeKind) (d : BitVec 32) :
    (s.post src kind d).scan = s.scan := by
  obtain ⟨n, a, e⟩ := post_eq s src kind d
  rw [e]

@[simp] theorem post_working (s : State) (src : Nat) (kind : NoticeKind) (d : BitVec 32) :
    (s.post src kind d).working = s.working := by
  obtain ⟨n, a, e⟩ := post_eq s src kind d
  rw [e]

@[simp] theorem post_nominations (s : State) (src : Nat) (kind : NoticeKind) (d : BitVec 32) :
    (s.post src kind d).nominations = s.nominations := by
  obtain ⟨n, a, e⟩ := post_eq s src kind d
  rw [e]

@[simp] theorem post_epoch (s : State) (src : Nat) (kind : NoticeKind) (d : BitVec 32) :
    (s.post src kind d).epoch = s.epoch := by
  obtain ⟨n, a, e⟩ := post_eq s src kind d
  rw [e]

@[simp] theorem post_epochTimer (s : State) (src : Nat) (kind : NoticeKind) (d : BitVec 32) :
    (s.post src kind d).epochTimer = s.epochTimer := by
  obtain ⟨n, a, e⟩ := post_eq s src kind d
  rw [e]

@[simp] theorem post_scanCount (s : State) (src : Nat) (kind : NoticeKind) (d : BitVec 32) :
    (s.post src kind d).scanCount = s.scanCount := by
  obtain ⟨n, a, e⟩ := post_eq s src kind d
  rw [e]

@[simp] theorem post_policyHold (s : State) (src : Nat) (kind : NoticeKind) (d : BitVec 32) :
    (s.post src kind d).policyHold = s.policyHold := by
  obtain ⟨n, a, e⟩ := post_eq s src kind d
  rw [e]

@[simp] theorem post_lost (s : State) (src : Nat) (kind : NoticeKind) (d : BitVec 32) :
    (s.post src kind d).lost = s.lost := by
  obtain ⟨n, a, e⟩ := post_eq s src kind d
  rw [e]

@[simp] theorem post_holdLevel (s : State) (src : Nat) (kind : NoticeKind) (d : BitVec 32) :
    (s.post src kind d).holdLevel = s.holdLevel := by
  obtain ⟨n, a, e⟩ := post_eq s src kind d
  rw [e]

@[simp] theorem post_work (s : State) (src : Nat) (kind : NoticeKind) (d : BitVec 32) :
    (s.post src kind d).work = s.work := by
  obtain ⟨n, a, e⟩ := post_eq s src kind d
  rw [e]

@[simp] theorem post_pending (s : State) (src : Nat) (kind : NoticeKind) (d : BitVec 32) :
    (s.post src kind d).pending = s.pending := by
  obtain ⟨n, a, e⟩ := post_eq s src kind d
  rw [e]

@[simp] theorem post_tenant (s : State) (src : Nat) (kind : NoticeKind) (d : BitVec 32) (k : Nat) :
    (s.post src kind d).tenant k = s.tenant k := by
  obtain ⟨n, a, e⟩ := post_eq s src kind d
  rw [e]
  rfl

@[simp] theorem post_stream (s : State) (src : Nat) (kind : NoticeKind) (d : BitVec 32) (k x : Nat) :
    (s.post src kind d).stream k x = s.stream k x := by
  obtain ⟨n, a, e⟩ := post_eq s src kind d
  rw [e]
  rfl

@[simp] theorem post_lane (s : State) (src : Nat) (kind : NoticeKind) (d : BitVec 32) (k : Nat) :
    (s.post src kind d).lane k = s.lane k := by
  obtain ⟨n, a, e⟩ := post_eq s src kind d
  rw [e]
  rfl

@[simp] theorem post_unit (s : State) (src : Nat) (kind : NoticeKind) (d : BitVec 32) (k : Nat) :
    (s.post src kind d).unit k = s.unit k := by
  obtain ⟨n, a, e⟩ := post_eq s src kind d
  rw [e]
  rfl

@[simp] theorem post_die (s : State) (src : Nat) (kind : NoticeKind) (d : BitVec 32) (k : Nat) :
    (s.post src kind d).die k = s.die k := by
  obtain ⟨n, a, e⟩ := post_eq s src kind d
  rw [e]
  rfl

@[simp] theorem post_pool (s : State) (src : Nat) (kind : NoticeKind) (d : BitVec 32) (k : Nat) :
    (s.post src kind d).pool k = s.pool k := by
  obtain ⟨n, a, e⟩ := post_eq s src kind d
  rw [e]
  rfl

/-- No internal event moves the device operating state. -/
theorem closed_device (dev : DeviceState) : Closed (fun s => s.device = dev) where
  setTenant _ h := h
  setCredit _ _ h := h
  setStream _ h := h
  setLane _ h := h
  setUnit _ h := h
  setDie h := h
  setPool h := h
  recency h := h
  laneWait h := h
  parked h := h
  unitWait h := h
  work h := h
  ordersSent h := h
  sent h := h
  reserved _ h := h
  scan _ h := h
  triggerIgnored h := h
  post {s src kind d} _ h := by
    obtain ⟨n, a, e⟩ := post_eq s src kind d
    rw [e]
    exact h
  modHead _ h := h
  leave _ _ h := h

/-! ## Kinds of unit move -/

theorem UnitMove.taken (t x : Nat) (r : UnitRec) : UnitMove r (r.takenFor t x) := by
  unfold UnitRec.takenFor
  split
  · rename_i h
    exact ⟨rfl, rfl, rfl, rfl, fun hs => (by rw [h] at hs; cases hs), fun _ => rfl, fun _ => rfl⟩
  · exact ⟨rfl, rfl, rfl, rfl, fun _ => ⟨rfl, rfl⟩, id, id⟩

theorem UnitMove.setAside (r : UnitRec) : UnitMove r r.setAside := by
  unfold UnitRec.setAside
  split
  · rename_i h
    exact ⟨rfl, rfl, rfl, rfl, fun hs => (by rw [h] at hs; cases hs), fun _ => rfl, fun _ => rfl⟩
  · exact ⟨rfl, rfl, rfl, rfl, fun _ => ⟨rfl, rfl⟩, id, id⟩

theorem UnitMove.resumed (r : UnitRec) (h : r.state = .parked) : UnitMove r { r with state := .opened } :=
  ⟨rfl, rfl, rfl, rfl, fun hs => (by rw [h] at hs; cases hs), fun _ => rfl, fun _ => rfl⟩

theorem UnitMove.stripe (r : UnitRec) (n : Nat) : UnitMove r { r with nextStripe := n } :=
  ⟨rfl, rfl, rfl, rfl, fun _ => ⟨rfl, rfl⟩, id, id⟩

/-! ## Kinds of tenant move -/

theorem bump_le (a n : Nat) : bump a n ≤ Config.counterMax := by
  unfold bump
  exact min_le_right _ _

/-- Counts of lanes and units, evictions of the epoch. -/
theorem TenantMove.counts (v : Tenant) (owned bound evictions : Nat) :
    TenantMove v { v with owned := owned, bound := bound, epochEvictions := evictions } :=
  ⟨rfl, rfl, rfl, rfl, rfl, rfl, rfl, rfl, fun h => ⟨h.active, h.pendingPolicy, h.credit, h.band, h.watch, h.counters⟩⟩

/-- The drain record. -/
theorem TenantMove.drain (v : Tenant) (d : Option Drain) : TenantMove v { v with drain := d } :=
  ⟨rfl, rfl, rfl, rfl, rfl, rfl, rfl, rfl, fun h => ⟨h.active, h.pendingPolicy, h.credit, h.band, h.watch, h.counters⟩⟩

/-- A balance that is no higher, or within twice the allowance, keeps the context in its ranges. -/
theorem Tenant.InRange.setCredit {v : Tenant} {c : Nat} (hc : c ≤ v.credit ∨ c ≤ 2 * v.active.allowance) (h : v.InRange) :
    ({ v with credit := c } : Tenant).InRange := by
  have ha := h.active.allowance
  have hv := h.credit
  have hb := h.band
  refine ⟨h.active, h.pendingPolicy, ?_, fun hn => ?_, h.watch, h.counters⟩
  · show c ≤ 2097150
    omega
  · have := hb hn
    show c ≤ 2 * v.active.allowance
    omega

theorem TenantMove.refl (v : Tenant) : TenantMove v v := ⟨rfl, rfl, rfl, rfl, rfl, rfl, rfl, rfl, id⟩

theorem TenantMove.trans {u v w : Tenant} (h : TenantMove u v) (k : TenantMove v w) : TenantMove u w where
  active := k.active.trans h.active
  balance := k.balance.trans h.balance
  accepted := k.accepted.trans h.accepted
  placed := k.placed.trans h.placed
  mapClamps := k.mapClamps.trans h.mapClamps
  state := k.state.trans h.state
  pendingPolicy := k.pendingPolicy.trans h.pendingPolicy
  watch := k.watch.trans h.watch
  inRange := k.inRange ∘ h.inRange

theorem TenantMove.pad (v : Tenant) (n : Nat) :
    TenantMove v { v with counters := { v.counters with pad := bump v.counters.pad n } } :=
  ⟨rfl, rfl, rfl, rfl, rfl, rfl, rfl, rfl, fun h => ⟨h.active, h.pendingPolicy, h.credit, h.band, h.watch,
    ⟨h.counters.accepted, h.counters.placed, bump_le _ _, h.counters.evictions, h.counters.mapClamps,
      h.counters.creditWaits, h.counters.noSpace⟩⟩⟩

theorem TenantMove.evictions (v : Tenant) (n : Nat) :
    TenantMove v { v with counters := { v.counters with evictions := bump v.counters.evictions n } } :=
  ⟨rfl, rfl, rfl, rfl, rfl, rfl, rfl, rfl, fun h => ⟨h.active, h.pendingPolicy, h.credit, h.band, h.watch,
    ⟨h.counters.accepted, h.counters.placed, h.counters.pad, bump_le _ _, h.counters.mapClamps,
      h.counters.creditWaits, h.counters.noSpace⟩⟩⟩

theorem TenantMove.creditWaits (v : Tenant) (n : Nat) :
    TenantMove v { v with counters := { v.counters with creditWaits := bump v.counters.creditWaits n } } :=
  ⟨rfl, rfl, rfl, rfl, rfl, rfl, rfl, rfl, fun h => ⟨h.active, h.pendingPolicy, h.credit, h.band, h.watch,
    ⟨h.counters.accepted, h.counters.placed, h.counters.pad, h.counters.evictions, h.counters.mapClamps,
      bump_le _ _, h.counters.noSpace⟩⟩⟩

theorem TenantMove.noSpace (v : Tenant) (n : Nat) :
    TenantMove v { v with counters := { v.counters with noSpace := bump v.counters.noSpace n } } :=
  ⟨rfl, rfl, rfl, rfl, rfl, rfl, rfl, rfl, fun h => ⟨h.active, h.pendingPolicy, h.credit, h.band, h.watch,
    ⟨h.counters.accepted, h.counters.placed, h.counters.pad, h.counters.evictions, h.counters.mapClamps,
      h.counters.creditWaits, bump_le _ _⟩⟩⟩

end Sys2Proof.Machine
end

