-- ==== Sys2Proof/Laws/Work.lean ====
section
/-! SUPPORT. Every internal event is made of the moves of Laws/Moves.lean: one lemma for each shared operation, up to the end
of a command. -/

namespace Sys2Proof.Machine

/-! ## Taking frames from a queue -/

theorem refund_only_tenants (s : State) (f : Frame) : ∃ t, s.refund f = { s with tenants := t } := by
  unfold State.refund
  split
  · exact ⟨_, rfl⟩
  · exact ⟨_, rfl⟩

/-- The charges of frames, returned one after the other. -/
def State.refundAll (s : State) (l : List Frame) : State := l.foldl State.refund s

theorem endFrame_fold (status : Frame → Status) (l : List Frame) (s : State) :
    l.foldl (State.endFrame status) s =
      { s.refundAll l with
        replies := s.replies ++ l.map (fun f => ⟨f.tag, status f, .write f.stream f.staged⟩) } := by
  induction l generalizing s with
  | nil => simp [State.refundAll]
  | cons f rest ih =>
    obtain ⟨t, ht⟩ := refund_only_tenants s f
    simp only [List.foldl_cons, State.refundAll, List.map_cons]
    rw [ih]
    have hcomm : ∀ (l : List Frame) (s : State) (r : List Reply),
        ({ s with replies := r } : State).refundAll l = { s.refundAll l with replies := r } := by
      intro l
      induction l with
      | nil => intro s r; rfl
      | cons g rest ih =>
        intro s r
        have : ({ s with replies := r } : State).refund g = { s.refund g with replies := r } := by
          unfold State.refund
          split <;> rfl
        show State.refundAll (({ s with replies := r } : State).refund g) rest = _
        rw [this, ih]
        rfl
    show _ = ({ State.refundAll (s.refund f) rest with replies := _ } : State)
    unfold State.endFrame State.reply
    rw [hcomm]
    simp [ht]

/-- What ending frames does: their charges return, they leave, and each is answered. -/
theorem endFrames_eq (s : State) (p : Frame → Bool) (status : Frame → Status) (order : List Frame → List Frame) :
    s.endFrames p status order =
      { ({ s with intake := s.intake.filter (fun f => !p f) } : State).refundAll (order (s.intake.filter p)) with
        replies := s.replies ++ (order (s.intake.filter p)).map (fun f => ⟨f.tag, status f, .write f.stream f.staged⟩) } := by
  unfold State.endFrames
  exact endFrame_fold _ _ _

theorem insertByTenant_perm (f : Frame) (l : List Frame) : (insertByTenant f l).Perm (f :: l) := by
  induction l with
  | nil => rfl
  | cons g rest ih =>
    unfold insertByTenant
    split
    · rfl
    · exact (List.Perm.cons g ih).trans (List.Perm.swap f g rest)

/-- Putting frames in the order of R54 loses none and adds none. -/
theorem byTenant_perm (l : List Frame) : (byTenant l).Perm l := by
  have h : ∀ (l acc : List Frame), (l.foldl (fun acc f => insertByTenant f acc) acc).Perm (l ++ acc) := by
    intro l
    induction l with
    | nil => intro acc; exact List.Perm.refl _
    | cons f rest ih =>
      intro acc
      exact (ih _).trans (((insertByTenant_perm f acc).append_left rest).trans List.perm_middle)
  simpa [byTenant] using h l []

namespace Closed

variable {P : State → Prop}

/-- The charge of a queued frame returned. -/
theorem refund (c : Closed P) {s : State} {f : Frame} (hf : f ∈ s.intake) (h : P s) : P (s.refund f) := by
  unfold State.refund
  split
  · unfold State.modTenant
    dsimp only
    split
    · exact c.setTenant (TenantMove.refl _) h
    · refine c.setCredit (List.ne_nil_of_mem (a := f) ?_) (Or.inr (min_le_right _ _)) h
      exact List.mem_filter.mpr ⟨hf, by simp⟩
  · exact h

theorem refundAll (c : Closed P) {l : List Frame} {s : State} (hl : ∀ f ∈ l, f ∈ s.intake) (h : P s) :
    P (s.refundAll l) := by
  induction l generalizing s with
  | nil => exact h
  | cons f rest ih =>
    obtain ⟨t, ht⟩ := refund_only_tenants s f
    refine ih (fun g hg => ?_) (c.refund (hl f (by simp)) h)
    rw [ht]
    exact hl g (by simp [hg])

theorem refundAll_leaves (l : List Frame) (s : State) : ∃ t, s.refundAll l = { s with tenants := t } := by
  induction l generalizing s with
  | nil => exact ⟨_, rfl⟩
  | cons f rest ih =>
    obtain ⟨t, ht⟩ := refund_only_tenants s f
    obtain ⟨t', ht'⟩ := ih (s.refund f)
    exact ⟨t', by
      show State.refundAll (s.refund f) rest = _
      rw [ht', ht]⟩

theorem refundAll_intake (l k : List Frame) (s : State) :
    ({ s with intake := k } : State).refundAll l = { s.refundAll l with intake := k } := by
  induction l generalizing s with
  | nil => rfl
  | cons f rest ih =>
    have : ({ s with intake := k } : State).refund f = { s.refund f with intake := k } := by
      unfold State.refund
      split <;> rfl
    show State.refundAll (({ s with intake := k } : State).refund f) rest = _
    rw [this, ih]
    rfl

theorem endFrames (c : Closed P) {s : State} {p status order} (ho : ∀ l : List Frame, (order l).Perm l) (h : P s) :
    P (s.endFrames p status order) := by
  rw [endFrames_eq, refundAll_intake]
  obtain ⟨t, ht⟩ := refundAll_leaves (order (s.intake.filter p)) s
  have h' := c.refundAll (l := order (s.intake.filter p))
    (fun f hf => (List.mem_filter.mp ((ho _).mem_iff.mp hf)).1) h
  rw [ht] at h' ⊢
  refine c.leave (s := { s with tenants := t }) ?_ ?_ h'
  · simpa using (ho _).length_eq
  · intro f hf
    exact ⟨_, List.mem_map.mpr ⟨f, (ho _).mem_iff.mpr hf, rfl⟩, rfl⟩

theorem noSpaceReport (c : Closed P) {s : State} {t x} (h : P s) : P (s.noSpaceReport t x) :=
  c.raiseHead (c.post rfl (c.modTenant (fun v => TenantMove.noSpace v _) (c.endFrames (fun _ => List.Perm.refl _) h)))

theorem abortQueue (c : Closed P) {s : State} {t} (h : P s) : P (s.abortQueue t) :=
  c.endFrames (fun _ => List.Perm.refl _) h

/-! ## Media -/

/-- A trigger that low water raises. -/
theorem scanTrigger (c : Closed P) {s : State} (ht : s.settings.trigger = .supplyLow) (h : P s) : P s.scanTrigger := by
  unfold State.scanTrigger
  split
  · exact c.scan ht h
  · exact c.triggerIgnored h

theorem reserve (c : Closed P) {s : State} {l k}
    (hr : s.hasReservation l k = true ∨ s.placement.length < Config.placementEntries) (h : P s) :
    P (s.reserve l k) := by
  unfold State.reserve
  split
  · exact h
  · rename_i hn
    exact c.reserved (hr.resolve_left hn) h

/-- Dispatch of an eligible die. -/
theorem dispatch (c : Closed P) {s : State} {d} (he : s.eligible d = true) (h : P s) : P (s.dispatch d) := by
  unfold State.eligible at he
  unfold State.dispatch
  split
  · exact h
  · rename_i e rest hq
    simp only [hq, Bool.and_eq_true, Bool.or_eq_true, decide_eq_true_eq, Bool.not_eq_true'] at he
    rcases e with ⟨l, k⟩ | ⟨u⟩
    · have hr : s.hasReservation l k = true ∨ s.placement.length < Config.placementEntries := by
        simpa [State.needsRoom] using he.2
      exact c.sent (c.modHalf (c.setDie (c.reserve hr h)))
    · exact c.sent (c.setDie h)

theorem joinDie (c : Closed P) {s : State} {d e} (h : P s) : P (s.joinDie d e) := by
  have h1 : P (s.modDie d (fun v => { v with queue := (s.die d).queue ++ [e] })) := c.modDie h
  unfold State.joinDie
  dsimp only
  split
  · rename_i he
    rw [Bool.and_eq_true] at he
    exact c.dispatch he.2 h1
  · exact h1

theorem grantGroup (c : Closed P) {g n} {s : State} (h : P s) : P (State.grantGroup g n s) := by
  induction n generalizing s with
  | zero => exact h
  | succ n ih =>
    unfold State.grantGroup
    split
    · rename_i d hd
      exact ih (c.dispatch (List.find?_some hd) h)
    · exact h

theorem endOrder (c : Closed P) {s : State} {d} (h : P s) : P (s.endOrder d) :=
  c.grantGroup (c.ordersSent (c.modDie h))

theorem requestSeal (c : Closed P) {s : State} {u} (h : P s) : P (s.requestSeal u) := by
  unfold State.requestSeal
  split
  · exact h
  · exact c.joinDie h

/-! ## Supply -/

theorem lowWaterCheck (c : Closed P) {s : State} {g} (h : P s) : P (s.lowWaterCheck g) := by
  unfold State.lowWaterCheck
  dsimp only
  split
  · split
    · rename_i ht
      exact c.scanTrigger ht (c.post rfl h)
    · exact c.post rfl h
  · exact h

theorem leaveUnitWait (c : Closed P) {s : State} {l} (h : P s) : P (s.leaveUnitWait l) := by
  unfold State.leaveUnitWait
  split
  · exact c.raiseService (c.unitWait h)
  · exact h

theorem joinUnitWait (c : Closed P) {s : State} {l} (h : P s) : P (s.joinUnitWait l) := by
  unfold State.joinUnitWait
  split
  · exact h
  · exact c.unitWait h

theorem giveUnit (c : Closed P) {s : State} {l u n} (h : P s) : P (s.giveUnit l u n) := by
  have h1 : P (s.modLane l fun v =>
      { v with current := some (u, n), state := if v.state = .unitWait then .active else v.state }) :=
    c.modLane (fun _ => rfl) h
  unfold State.giveUnit
  dsimp only
  split
  · exact c.raiseCheck h1
  · exact h1

theorem resumeParked (c : Closed P) {s : State} {l t x u n} (hu : (s.unit u).state = .parked) (h : P s) :
    P (s.resumeParked l t x u n) :=
  c.giveUnit (c.parked (c.modStream (fun _ => ⟨rfl, rfl⟩) (c.setUnit (UnitMove.resumed _ hu) h)))

theorem drawUnit (c : Closed P) {s : State} {g l t x} (h : P s) : P (s.drawUnit g l t x) := by
  unfold State.drawUnit
  split
  · exact h
  · exact c.lowWaterCheck (c.giveUnit (c.modTenant (fun v => TenantMove.counts v _ _ _)
      (c.modUnit (UnitMove.taken t x) (c.setPool h))))

theorem dropEmptyFilling (c : Closed P) {s : State} {l} (h : P s) : P (s.dropEmptyFilling l) := by
  unfold State.dropEmptyFilling
  split
  · split
    · exact c.modHalf h
    · exact h
  · exact h

theorem noUnitFound (c : Closed P) {s : State} {l t x} (h : P s) : P (s.noUnitFound l t x) := by
  unfold State.noUnitFound
  split
  · exact h
  · split
    · split
      · exact c.noSpaceReport (c.joinUnitWait (c.modLane (fun _ => rfl) (c.dropEmptyFilling h)))
      · exact c.joinUnitWait (c.modLane (fun _ => rfl) h)
    · exact c.joinUnitWait h

theorem takeUnit (c : Closed P) {s : State} {l} (h : P s) : P (s.takeUnit l) := by
  unfold State.takeUnit
  split
  · exact h
  · rename_i t x _
    have hp : P (match s.choosePool (s.tenant t).active.poolMask (s.askPolicy l t) with
        | some g => (s.drawUnit g l t x).leaveUnitWait l
        | none => s.noUnitFound l t x) := by
      split
      · exact c.leaveUnitWait (c.drawUnit h)
      · exact c.noUnitFound h
    dsimp only
    split
    · split
      · rename_i hu
        simp only [Bool.and_eq_true, decide_eq_true_eq] at hu
        exact c.leaveUnitWait (c.resumeParked hu.1 h)
      · exact hp
    · exact hp

/-! ## Lanes -/

theorem refillOther (c : Closed P) {s : State} {l k} (h : P s) : P (s.refillOther l k) := by
  unfold State.refillOther
  split
  · exact c.modHalf h
  · exact h

theorem assignHalf (c : Closed P) {s : State} {l k u n} (h : P s) : P (s.assignHalf l k u n) :=
  c.joinDie (c.modUnit (fun r => UnitMove.stripe r _) (c.modLane (fun _ => rfl) (c.modHalf h)))

theorem halfFull (c : Closed P) {s : State} {l k closing} (h : P s) : P (s.halfFull l k closing) := by
  have h1 : P (s.modHalf l k (fun v => { v with state := .full })) := c.modHalf h
  unfold State.halfFull
  dsimp only
  split
  · rename_i u n _
    have h2 := c.assignHalf (l := l) (k := k) (u := u) (n := n) h1
    have h3 := ite_keeps (c := closing = true) h2 (c.refillOther (l := l) (k := k) h2)
    exact ite_keeps (c.takeUnit h3) h3
  · have h2 := ite_keeps (c := ((s.modHalf l k (fun v => { v with state := .full })).half l k.other).waitsForUnit = true)
      (c.modLane (l := l) (f := fun v => { v with firstFull := some k.other }) (fun _ => rfl) h1) h1
    exact ite_keeps h2 (c.refillOther h2)

theorem markFirst (c : Closed P) {s : State} {l k} (h : P s) : P (s.markFirst l k) := by
  unfold State.markFirst
  split
  · exact c.modLane (fun _ => rfl) h
  · exact h

theorem assignInTurn (c : Closed P) {l halves ask} {s : State} (h : P s) : P (assignInTurn l halves ask s) := by
  induction halves generalizing s ask with
  | nil => exact h
  | cons k rest ih =>
    have h1 : P (if (s.lane l).current.isNone && ask then s.takeUnit l else s) := by
      split
      · exact c.takeUnit h
      · exact h
    unfold Machine.assignInTurn
    exact ite_keeps (ih (c.halfFull h1)) (c.markFirst h1)

theorem unitArrived (c : Closed P) {s : State} {l} (h : P s) : P (s.unitArrived l) := c.assignInTurn h

theorem padHalf (c : Closed P) {s : State} {l k closing} (h : P s) : P (s.padHalf l k closing) := by
  unfold State.padHalf
  dsimp only
  split
  · exact c.halfFull (c.modTenant (fun v => TenantMove.pad v _) (c.modHalf h))
  · exact c.halfFull (c.modHalf h)

theorem padFilling (c : Closed P) {s : State} {l closing} (h : P s) : P (s.padFilling l closing) := by
  unfold State.padFilling
  split
  · split
    · exact c.padHalf h
    · exact h
  · exact h

theorem freeLane (c : Closed P) {s : State} {l} (h : P s) : P (s.freeLane l) := by
  unfold State.freeLane
  dsimp only
  split
  · exact c.raiseFreed (c.modLane (fun _ => rfl) h)
  · exact c.modLane (fun _ => rfl) h

theorem park (c : Closed P) {s : State} {t x u n} (h : P s) : P (s.park t x u n) := by
  have h1 := c.parked (n := if (s.unit u).state = .opened then s.parked + 1 else s.parked) (c.modStream (t := t) (x := x)
    (f := fun v => { v with parkedUnit := some (u, n) }) (fun _ => ⟨rfl, rfl⟩)
    (c.modUnit (u := u) (f := UnitRec.setAside) UnitMove.setAside h))
  unfold State.park
  dsimp only
  split
  · exact c.requestSeal h1
  · exact h1

theorem closingComplete (c : Closed P) {s : State} {l} (h : P s) : P (s.closingComplete l) := by
  unfold State.closingComplete
  split
  · split
    · exact c.requestSeal h
    · split
      · exact c.freeLane (c.park h)
      · exact c.requestSeal h
  · exact c.freeLane h

theorem closeIfDrained (c : Closed P) {s : State} {l} (h : P s) : P (s.closeIfDrained l) := by
  unfold State.closeIfDrained
  split
  · exact c.closingComplete h
  · exact h

theorem detach (c : Closed P) {s : State} {l t x} (h : P s) : P (s.detach l t x) :=
  c.modTenant (fun v => TenantMove.counts v _ _ _) (c.recency (c.modLane (fun _ => rfl)
    (c.modStream (fun _ => ⟨rfl, rfl⟩) (c.dropEmptyFilling (c.padFilling h)))))

theorem countEviction (c : Closed P) {s : State} {t} (h : P s) : P (s.countEviction t) :=
  c.modTenant (fun v => (TenantMove.evictions v 1).trans (TenantMove.counts _ _ _ _)) h

theorem evict (c : Closed P) {s : State} {l} (h : P s) : P (s.evict l) := by
  unfold State.evict
  split
  · exact h
  · dsimp only
    split
    · exact c.raiseHead (c.closeIfDrained (c.leaveUnitWait (c.countEviction (c.detach h))))
    · exact c.raiseHead (c.closeIfDrained (c.countEviction (c.detach h)))

theorem closeFinally (c : Closed P) {s : State} {l} (h : P s) : P (s.closeFinally l) := by
  unfold State.closeFinally
  split
  · exact h
  · exact c.closeIfDrained (c.assignInTurn (c.leaveUnitWait (c.detach h)))

theorem noteBound (c : Closed P) {s : State} {t x} (h : P s) : P (s.noteBound t x) := by
  unfold State.noteBound
  dsimp only
  split
  · refine c.modHead (fun f => ?_) h
    split <;> exact ⟨rfl, rfl, rfl, rfl, rfl, rfl⟩
  · exact h

theorem bindLane (c : Closed P) {s : State} {l t x} (h : P s) : P (s.bindLane l t x) :=
  c.noteBound (c.takeUnit (c.recency (c.modTenant (fun v => TenantMove.counts v _ _ _)
    (c.modStream (fun _ => ⟨rfl, rfl⟩) (c.modLane (fun _ => rfl) h)))))

theorem selfEvict (c : Closed P) {s : State} {t} (h : P s) : P (s.selfEvict t) := by
  unfold State.selfEvict
  split
  · exact c.evict h
  · exact h

theorem handOver (c : Closed P) {s : State} {l} (h : P s) : P (s.handOver l) := by
  unfold State.handOver
  split
  · exact h
  · split
    · dsimp only
      split
      · exact c.bindLane (c.selfEvict (c.laneWait h))
      · exact c.bindLane (c.laneWait h)
    · exact h

theorem joinLaneWait (c : Closed P) {s : State} {t x} (h : P s) : P (s.joinLaneWait t x) :=
  c.laneWait (c.modStream (fun _ => ⟨rfl, rfl⟩) h)

theorem afterJoin (c : Closed P) {s : State} (h : P s) : P s.afterJoin := by
  unfold State.afterJoin
  split
  · exact c.raiseCheck (c.raiseFreed h)
  · exact c.raiseCheck h

theorem bindRequest (c : Closed P) {s : State} {t x} (h : P s) : P (s.bindRequest t x) := by
  unfold State.bindRequest
  split
  · exact c.afterJoin (c.joinLaneWait (c.selfEvict h))
  · split
    · exact c.bindLane h
    · exact c.afterJoin (c.joinLaneWait h)

theorem checkOnce (c : Closed P) {s : State} (h : P s) : P s.checkOnce := by
  unfold State.checkOnce
  dsimp only
  split
  · split
    · exact c.evict h
    · exact c.work h
  · exact c.work h

theorem serviceOnce (c : Closed P) {s : State} (h : P s) : P s.serviceOnce := by
  unfold State.serviceOnce
  dsimp only
  split
  · exact c.work h
  · split
    · exact c.work h
    · split
      · exact c.unitArrived (c.drawUnit (c.unitWait h))
      · exact c.work h

/-! ## Queue heads -/

theorem headAt (c : Closed P) {s : State} {t step} (h : P s) : P (s.headAt t step) :=
  c.modHead (fun _ => ⟨rfl, rfl, rfl, rfl, rfl, rfl⟩) h

theorem serveAgain (c : Closed P) {s : State} {t} (h : P s) : P (s.serveAgain t) := by
  refine c.raiseHead (c.modHead (fun f => ?_) h)
  unfold Frame.again
  split <;> exact ⟨rfl, rfl, rfl, rfl, rfl, rfl⟩

theorem waitForCredit (c : Closed P) {s : State} {t f} (h : P s) : P (s.waitForCredit t f) := by
  have h1 : P (s.modHead t (fun g => { g with step := .credit, creditWaited := true })) :=
    c.modHead (fun _ => ⟨rfl, rfl, rfl, rfl, rfl, rfl⟩) h
  unfold State.waitForCredit
  dsimp only
  split
  · exact h1
  · exact c.modTenant (fun v => TenantMove.creditWaits v _) h1

theorem queueOf_of_headOf {s : State} {t : Nat} {f : Frame} (hf : s.headOf t = some f) : s.queueOf t ≠ [] :=
  List.ne_nil_of_mem (a := f) (List.mem_filter.mpr
    ⟨List.mem_of_find?_eq_some hf, List.find?_some (p := fun f : Frame => decide (f.tenant = t)) hf⟩)

theorem creditStep (c : Closed P) {s : State} {t f} (hq : s.queueOf t ≠ []) (h : P s) : P (s.creditStep t f) := by
  unfold State.creditStep
  split
  · exact c.headAt h
  · split
    · exact c.modHead (fun _ => ⟨rfl, rfl, rfl, rfl, rfl, rfl⟩) h
    · split
      · exact c.modHead (fun _ => ⟨rfl, rfl, rfl, rfl, rfl, rfl⟩) (c.setCredit hq (Or.inl (Nat.sub_le _ _)) h)
      · exact c.waitForCredit h

theorem laneStep (c : Closed P) {s : State} {t x} (h : P s) : P (s.laneStep t x) := by
  unfold State.laneStep
  split
  · exact c.headAt h
  · exact c.headAt h
  · exact c.bindRequest (c.headAt h)

theorem halfStep (c : Closed P) {s : State} {t x} (h : P s) : P (s.halfStep t x) := by
  unfold State.halfStep
  split
  · split
    · exact c.headAt h
    · exact h
  · exact c.laneStep h

theorem settleAndBind (c : Closed P) {s : State} {t f} (hq : s.queueOf t ≠ []) (h : P s) : P (s.settleAndBind t f) := by
  have h1 := c.creditStep (t := t) (f := f) hq h
  unfold State.settleAndBind
  dsimp only
  split
  · split
    · exact h1
    · exact c.laneStep h1
  · exact h1

theorem serveHead (c : Closed P) {s : State} {t} (h : P s) : P (s.serveHead t) := by
  unfold State.serveHead
  split
  · split
    · exact h
    · rename_i f hf
      split
      · exact h
      · exact c.halfStep h
      · exact c.settleAndBind (queueOf_of_headOf hf) h
  · exact h

/-! ## Removal -/

theorem displaceParked (c : Closed P) {s : State} {t x} (h : P s) : P (State.displaceParked t s x) := by
  unfold State.displaceParked
  split
  · exact c.requestSeal (c.modStream (fun _ => ⟨rfl, rfl⟩) h)
  · exact h

theorem clearStream (c : Closed P) {s : State} {t x} (h : P s) : P (State.clearStream t s x) := by
  unfold State.clearStream
  exact c.modStream (fun _ => ⟨rfl, rfl⟩) (c.displaceParked (c.laneWait h))

theorem markClosed (c : Closed P) {s : State} {t} (h : P s) : P (s.markClosed t) :=
  c.modTenant (fun v => TenantMove.drain v _) h

theorem finalClose (c : Closed P) {s : State} {t} (h : P s) : P (s.finalClose t) :=
  c.raiseCheck (foldl_closed (fun _ _ => c.clearStream) _ (foldl_closed (fun _ _ => c.closeFinally) _ (c.markClosed h)))

theorem resetStream (c : Closed P) {s : State} {t x} (h : P s) : P (State.resetStream t s x) :=
  c.modStream (fun _ => ⟨rfl, rfl⟩) h

theorem resetStreams_tenants (t : Nat) (l : List Nat) (s : State) :
    (l.foldl (State.resetStream t) s).tenants = s.tenants := by
  induction l generalizing s with
  | nil => rfl
  | cons x rest ih => exact (ih _).trans rfl

/-! ## The end of a command -/

theorem laneStepOnce (c : Closed P) {s t : State} (hw : s.laneStepOnce = some t) (h : P s) : P t := by
  unfold State.laneStepOnce at hw
  split at hw
  · cases hw
    exact c.serviceOnce h
  · split at hw
    · cases hw
      exact c.handOver (c.work h)
    · split at hw
      · cases hw
        exact c.checkOnce h
      · cases hw

theorem workStep (c : Closed P) {s t : State} (hw : s.workStep = some t) (h : P s) : P t := by
  unfold State.workStep at hw
  split at hw
  · rename_i hl
    cases hw
    exact c.laneStepOnce hl h
  · split at hw
    · cases hw
      exact c.serveHead (c.work h)
    · cases hc : s.closeDue with
      | none => rw [hc] at hw; cases hw
      | some n =>
        rw [hc, Option.map_some, Option.some.injEq] at hw
        rw [← hw]
        exact c.finalClose h

/-- A chain of internal events, each of which keeps the property. -/
theorem cascade {next : State → Option State} (hn : ∀ {s t : State}, next s = some t → P s → P t) {n} {s : State}
    (h : P s) : P (State.cascade next n s) := by
  induction n generalizing s with
  | zero => exact h
  | succ n ih =>
    unfold State.cascade
    split
    · rename_i t ht
      exact ih (hn ht h)
    · exact h

theorem runLanes (c : Closed P) {s : State} (h : P s) : P s.runLanes := cascade c.laneStepOnce h

theorem runWork (c : Closed P) {s : State} (h : P s) : P s.runWork := cascade c.workStep h

theorem holdFree (c : Closed P) {s : State} {l} (h : P s) : P (s.holdFree l) := by
  unfold State.holdFree
  split
  · exact h
  · rename_i t x _
    have h1 : P (match (s.lane l).current with | some (u, n) => s.park t x u n | none => s) := by
      split
      · exact c.park h
      · exact h
    have h2 : ∀ {q : State}, P q → P { q with recency := q.recency.erase l, unitWait := q.unitWait.erase l } :=
      fun {q} hq => c.unitWait (s := { q with recency := q.recency.erase l }) (c.recency hq)
    exact c.modTenant (fun v => TenantMove.counts v _ _ _) (c.modStream (fun _ => ⟨rfl, rfl⟩)
      (h2 (c.modLane (fun _ => rfl) h1)))

theorem holdUnbind (c : Closed P) {s : State} {e} (h : P s) : P (s.holdUnbind e) :=
  c.modStream (fun _ => ⟨rfl, rfl⟩) h

theorem holdDrain (c : Closed P) {s : State} {t} (h : P s) : P (s.holdDrain t) := by
  unfold State.holdDrain
  split
  · exact c.finalClose h
  · split
    · exact foldl_closed (fun _ _ => c.displaceParked) _ h
    · exact h

end Closed

namespace ClosedToLoss

variable {P : State → Prop}

theorem grantRoom (c : ClosedToLoss P) {s : State} (h : P s) : P s.grantRoom := by
  unfold State.grantRoom
  dsimp only
  split
  · rename_i d hd
    have hw := List.find?_some hd
    unfold State.wantsRoom at hw
    rw [Bool.and_eq_true] at hw
    exact c.groupPtr (c.toClosed.dispatch hw.1 h)
  · exact h

theorem emptyHalf (c : ClosedToLoss P) {s : State} {l k lost} (h : P s) : P (s.emptyHalf l k lost) :=
  foldl_closed (fun _ _ => c.lowerFlush) _ (c.toClosed.modHalf h)

theorem loseHalf (c : ClosedToLoss P) {s : State} {l k} (h : P s) : P (State.loseHalf l s k) := by
  have h1 : P ((({ s with lost := bump s.lost (s.half l k).realCount } : State).modCounters
      (fun c => { c with sectorsLost := bump c.sectorsLost (s.half l k).realCount })).emptyHalf l k true) :=
    c.emptyHalf (c.countLost h)
  unfold State.loseHalf
  exact ite_keeps (c.grantRoom (c.dropEntries h1)) h1

theorem loseWaiting (c : ClosedToLoss P) {s : State} {l} (h : P s) : P (s.loseWaiting l) := by
  unfold State.loseWaiting
  split
  · exact h
  · have h1 : ∀ halves : List HalfId, P ((halves.foldl (State.loseHalf l) s).modLane l
        (fun v => { v with firstFull := none })) :=
      fun halves => c.toClosed.modLane (fun _ => rfl) (foldl_closed (fun _ _ => c.loseHalf) halves h)
    exact ite_keeps (c.toClosed.joinUnitWait (c.toClosed.modLane (fun _ => rfl) (h1 _)))
      (c.toClosed.closeIfDrained (c.toClosed.leaveUnitWait (h1 _)))

theorem holdTake (c : ClosedToLoss P) {s : State} {l} (h : P s) : P (s.holdTake l) :=
  c.loseWaiting (c.toClosed.assignInTurn h)

theorem holdWalk (c : ClosedToLoss P) {s : State} {l} (h : P s) : P (s.holdWalk l) := by
  unfold State.holdWalk
  exact ite_keeps h (c.holdTake h)

theorem reissue (c : ClosedToLoss P) {s : State} {l k u} (h : P s) : P (s.reissue l k u) := by
  have h1 : P (s.releaseFailed l k u) := by
    unfold State.releaseFailed
    dsimp only
    refine c.toClosed.modLane (fun v => ?_) ?_
    · split
      · split <;> rfl
      · rfl
    · exact ite_keeps (c.toClosed.modHalf (c.toClosed.modDie (c.toClosed.modHalf h))) (c.toClosed.modHalf h)
  unfold State.reissue
  exact ite_keeps (c.loseWaiting (c.toClosed.assignInTurn h1)) (c.toClosed.assignInTurn h1)

end ClosedToLoss

namespace Closed

variable {P : State → Prop}

/-- Outside HOLDING a reissue loses nothing. -/
theorem reissue_running (c : Closed P) {s : State} {l k u} (hd : s.device ≠ .holding) (h : P s) : P (s.reissue l k u) := by
  let Q : State → Prop := fun q => P q ∧ q.device = s.device
  have b := c.and (closed_device s.device)
  have h1 : Q (s.releaseFailed l k u) := by
    unfold State.releaseFailed
    dsimp only
    refine b.modLane (fun v => ?_) ?_
    · split
      · split <;> rfl
      · rfl
    · exact ite_keeps (P := Q) (b.modHalf (b.modDie (b.modHalf ⟨h, rfl⟩))) (b.modHalf ⟨h, rfl⟩)
  have h2 : ∀ order, Q (Machine.assignInTurn l order true (s.releaseFailed l k u)) := fun order => b.assignInTurn h1
  unfold State.reissue
  dsimp only
  rw [if_neg (by rw [(h2 _).2]; exact hd)]
  exact (h2 _).1

theorem quotaEvict (c : Closed P) {t n} {s : State} (h : P s) : P (State.quotaEvict t n s) := by
  induction n generalizing s with
  | zero => exact h
  | succ n ih =>
    unfold State.quotaEvict
    exact ite_keeps (ih (c.selfEvict h)) h

/-- What follows once a tenant stands under a new active record (R29, R30). -/
theorem applyRecord (c : Closed P) {t p} {s : State} (h : P (s.modTenant t (Tenant.under p))) :
    P (s.applyRecord t p) := by
  have h1 : ∀ {q : State}, P q → P (q.handQuota t) := fun {q} hq => by
    unfold State.handQuota
    exact c.runLanes (c.quotaEvict hq)
  have h2 : ∀ {q : State} {old new}, P q → P (q.handFloor old new) := fun {q old new} hq => by
    unfold State.handFloor
    exact ite_keeps (c.runLanes (c.raiseCheck hq)) hq
  have h3 : ∀ {q : State} {old new}, P q → P (q.handPools t old new) := fun {q old new} hq => by
    unfold State.handPools
    exact ite_keeps (c.runLanes (c.raiseService hq)) hq
  exact c.raiseHead (h3 (h2 (h1 h)))

theorem startDeadline (c : Closed P) {s : State} {t} (h : P s) : P (s.startDeadline t) := by
  unfold State.startDeadline
  exact ite_keeps (c.modTenant (fun v => TenantMove.drain v _) h) h

theorem drainQueue (c : Closed P) {s : State} {t mode} (h : P s) : P (s.drainQueue t mode).1 := by
  cases mode
  · exact c.serveAgain h
  · exact c.abortQueue h

theorem stopTimer (c : Closed P) {s : State} {t} (h : P s) : P (s.stopTimer t) := by
  unfold State.stopTimer
  exact ite_keeps (c.modTenant (fun v => TenantMove.drain v _) h) h

end Closed

/-- Entry to HOLDING, from the state with the device in HOLDING, nothing lost and the timers stopped (R178). -/
theorem ClosedToLoss.enterHolding {P : State → Prop} (c : ClosedToLoss P) {s : State}
    (h : P { s with device := .holding, lost := 0, epochTimer := none }) : P s.enterHolding := by
  have b := c.toClosed.and (closed_device .holding)
  let Q : State → Prop := fun q => P q ∧ q.device = .holding
  have h1 : Q s.holdStart := foldl_closed (P := Q) (fun _ _ => b.stopTimer) _ ⟨h, rfl⟩
  have h2 : Q (s.holdStart.endFrames (fun _ => true) holdStatus byTenant) := b.endFrames byTenant_perm h1
  have ab : ∀ {q : State}, Q q → P q.abandonScan := fun {q} hq => by
    unfold State.abandonScan
    exact ite_keeps (c.abandon hq.2 hq.1) hq.1
  unfold State.enterHolding
  exact foldl_closed (fun _ _ => c.holdWalk) _ (foldl_closed (fun _ _ => c.toClosed.padFilling) _ (ab h2))

namespace ClosedToEnd

variable {P : State → Prop}

theorem returnToRunning (c : ClosedToEnd P) {s : State} (hd : s.device = .holding) (h : P s) : P s.returnToRunning := by
  unfold State.returnToRunning State.continuousScan
  exact ite_keeps (c.resumeScan (s := s) hd h) (c.endHolding hd h)

theorem finishHold (c : ClosedToEnd P) {s : State} (hd : s.device = .holding) (h : P s) : P s.finishHold := by
  have b := c.toClosed.and (closed_device .holding)
  let Q : State → Prop := fun s => P s ∧ s.device = .holding
  have step : ∀ {q : State}, Q q → Q { q.laneWait.foldl State.holdUnbind q with laneWait := [], unitWait := [] } :=
    fun {q} hq => b.unitWait (s := { q.laneWait.foldl State.holdUnbind q with laneWait := [] })
      (b.laneWait (foldl_closed (P := Q) (fun _ _ => b.holdUnbind) q.laneWait hq))
  have h1 : Q s := ⟨h, hd⟩
  have h2 := step (foldl_closed (P := Q) (f := State.holdFree) (fun _ _ => b.holdFree) s.boundLanes h1)
  have drain : ∀ {q : State} (l : List Nat), Q q → Q (l.foldl State.holdDrain q) :=
    fun l hq => foldl_closed (P := Q) (fun _ _ => b.holdDrain) l hq
  have note : ∀ {q : State} {d}, Q q → Q (q.post Config.deviceSource .holdDone d) := fun hq => b.post rfl hq
  have fin : ∀ {q : State}, Q q →
      P (if q.settings.autoResume && !q.holdLevel then q.returnToRunning else { q with device := .held }) :=
    fun {q} hq => ite_keeps (c.returnToRunning hq.2 hq.1) (c.endHolding (timer := q.epochTimer) hq.2 hq.1)
  unfold State.finishHold
  exact fin (note (drain _ h2))

/-- A REMOVED tenant becomes VACANT (R22). -/
theorem vacate (c : ClosedToEnd P) {s : State} {t} (ht : (s.tenant t).state = .removed) (h : P s) : P (s.vacate t) := by
  have e : (allStreams.foldl (State.resetStream t) s).tenant t = s.tenant t :=
    congrArg (fun l => rowOf Tenant.reset l t) (Closed.resetStreams_tenants t allStreams s)
  have hs : ((allStreams.foldl (State.resetStream t) s).tenant t).state = .removed := by
    rw [e]
    exact ht
  exact c.vacant hs (foldl_closed (fun _ _ => c.toClosed.resetStream) _ h)

theorem completeDrain (c : ClosedToEnd P) {s : State} {t} (h : P s) : P (s.completeDrain t) := by
  unfold State.completeDrain
  split
  · rename_i hd
    have hs : (s.tenant t).state = .draining := by
      unfold State.drained Tenant.isClosed at hd
      simp only [Bool.and_eq_true, decide_eq_true_eq] at hd
      exact hd.1.1.1
    have h1 : P ((s.modTenant t (fun v => { v with state := .removed, drain := none })).post t .drained 0#32) :=
      c.toClosed.post rfl (c.removed hs h)
    dsimp only
    split
    · refine c.vacate ?_ h1
      unfold State.tenant
      rw [post_tenants]
      exact congrArg Tenant.state (rowOf_putRow_same Tenant.reset s.tenants t
        { s.tenant t with state := .removed, drain := none })
    · exact h1
  · exact h

theorem completeDrains (c : ClosedToEnd P) {s : State} (h : P s) : P s.completeDrains :=
  foldl_closed (fun _ _ => c.completeDrain) _ h

theorem conclude (c : ClosedToEnd P) {s : State} (h : P s) : P s.conclude := by
  have h1 : P s.runWork := c.toClosed.runWork h
  unfold State.conclude
  refine c.completeDrains ?_
  split
  · rename_i hf
    simp only [Bool.and_eq_true, decide_eq_true_eq] at hf
    exact c.toClosed.runWork (c.finishHold hf.1 h1)
  · exact h1

/-- An order has ended. -/
theorem finishOrder (c : ClosedToEnd P) {s : State} {d} (h : P s) : P ((s.runWork.endOrder d).conclude) :=
  c.conclude (c.toClosed.endOrder (c.toClosed.runWork h))

end ClosedToEnd

end Sys2Proof.Machine
end

