-- ==== Sys2Proof/Laws/Kept.lean ====
section
/-! SUPPORT. What internal events keep: RecordsKept and WorkKeeps are closed under the moves, so they hold of every internal
event and of the end of every command. -/

namespace Sys2Proof.Machine

theorem SameFrame.refl (f : Frame) : SameFrame f f := ⟨rfl, rfl, rfl, rfl, rfl, rfl⟩

theorem SameFrame.trans {f g k : Frame} (h : SameFrame f g) (j : SameFrame g k) : SameFrame f k :=
  ⟨j.tag.trans h.tag, j.tenant.trans h.tenant, j.stream.trans h.stream, j.relocation.trans h.relocation,
    j.writeTag.trans h.writeTag, j.sectors.trans h.sectors⟩

theorem RecordsKept.refl (s : State) : RecordsKept s s where
  settings := rfl
  tx := rfl
  receiving := rfl
  resyncArmed := rfl
  resetWait := rfl
  credit := rfl
  preference := rfl
  epoch := rfl
  scanCount := rfl
  policyHold := rfl
  holdLevel := rfl
  pending := rfl
  device _ := ⟨rfl, rfl⟩
  replies := List.prefix_refl _
  frames f hf := Or.inl ⟨f, hf, SameFrame.refl f⟩
  came g hg := ⟨g, hg, SameFrame.refl g⟩
  fewer := le_refl _
  linkErrors := rfl
  staleReports := rfl
  programFails := rfl
  programTimeouts := rfl
  underruns := rfl
  invalidatesIgnored := rfl
  forcedReleases := rfl
  active _ := rfl
  balance _ _ := rfl
  scan _ _ := ⟨rfl, rfl⟩
  nominations := rfl
  accepted _ := rfl
  placed _ := rfl
  mapClamps _ := rfl
  undrained _ _ _ := ⟨rfl, rfl, rfl⟩
  gone _ := id
  withdrawn _ := id
  streamAccepted _ _ := rfl
  streamPlaced _ _ := rfl
  valid _ := rfl
  programmed _ := rfl
  sealEpoch _ := rfl
  failed _ := rfl
  settled _ _ := ⟨rfl, rfl⟩
  unsettled _ := id
  stillOpen _ := id
  failRun _ := rfl
  notices _ _ _ := rfl

theorem RecordsKept.trans {s t u : State} (h : RecordsKept s t) (k : RecordsKept t u) : RecordsKept s u where
  settings := k.settings.trans h.settings
  tx := k.tx.trans h.tx
  receiving := k.receiving.trans h.receiving
  resyncArmed := k.resyncArmed.trans h.resyncArmed
  resetWait := k.resetWait.trans h.resetWait
  credit := k.credit.trans h.credit
  preference := k.preference.trans h.preference
  epoch := k.epoch.trans h.epoch
  scanCount := k.scanCount.trans h.scanCount
  policyHold := k.policyHold.trans h.policyHold
  holdLevel := k.holdLevel.trans h.holdLevel
  pending := k.pending.trans h.pending
  device hd := by
    obtain ⟨a, b⟩ := h.device hd
    obtain ⟨a', b'⟩ := k.device (a ▸ hd)
    exact ⟨a'.trans a, b'.trans b⟩
  replies := h.replies.trans k.replies
  frames f hf := by
    rcases h.frames f hf with ⟨g, hg, hs⟩ | ⟨r, hr, ht⟩
    · rcases k.frames g hg with ⟨g', hg', hs'⟩ | ⟨r, hr, ht⟩
      · exact Or.inl ⟨g', hg', hs.trans hs'⟩
      · exact Or.inr ⟨r, hr, ht.trans hs.tag⟩
    · exact Or.inr ⟨r, k.replies.subset hr, ht⟩
  came g hg := by
    obtain ⟨f, hf, hs⟩ := k.came g hg
    obtain ⟨e, he, hs'⟩ := h.came f hf
    exact ⟨e, he, hs'.trans hs⟩
  fewer := le_trans k.fewer h.fewer
  linkErrors := k.linkErrors.trans h.linkErrors
  staleReports := k.staleReports.trans h.staleReports
  programFails := k.programFails.trans h.programFails
  programTimeouts := k.programTimeouts.trans h.programTimeouts
  underruns := k.underruns.trans h.underruns
  invalidatesIgnored := k.invalidatesIgnored.trans h.invalidatesIgnored
  forcedReleases := k.forcedReleases.trans h.forcedReleases
  active n := (k.active n).trans (h.active n)
  balance n hq := by
    refine (k.balance n ?_).trans (h.balance n hq)
    unfold State.queueOf at hq ⊢
    rw [List.filter_eq_nil_iff] at hq ⊢
    intro g hg
    obtain ⟨f, hf, hs⟩ := h.came g hg
    rw [hs.tenant]
    exact hq f hf
  scan hd ht := by
    obtain ⟨a, b⟩ := h.scan hd ht
    obtain ⟨a', b'⟩ := k.scan ((h.device hd).1 ▸ hd) (h.settings ▸ ht)
    exact ⟨a'.trans a, b'.trans b⟩
  nominations := k.nominations.trans h.nominations
  accepted n := (k.accepted n).trans (h.accepted n)
  placed n := (k.placed n).trans (h.placed n)
  mapClamps n := (k.mapClamps n).trans (h.mapClamps n)
  undrained n h1 h2 := by
    obtain ⟨a, b, c⟩ := h.undrained n h1 h2
    obtain ⟨a', b', c'⟩ := k.undrained n (a ▸ h1) (a ▸ h2)
    exact ⟨a'.trans a, b'.trans b, c'.trans c⟩
  gone n := k.gone n ∘ h.gone n
  withdrawn n := k.withdrawn n ∘ h.withdrawn n
  streamAccepted n x := (k.streamAccepted n x).trans (h.streamAccepted n x)
  streamPlaced n x := (k.streamPlaced n x).trans (h.streamPlaced n x)
  valid n := (k.valid n).trans (h.valid n)
  programmed n := (k.programmed n).trans (h.programmed n)
  sealEpoch n := (k.sealEpoch n).trans (h.sealEpoch n)
  failed n := (k.failed n).trans (h.failed n)
  settled n hs := by
    obtain ⟨a, b⟩ := h.settled n hs
    obtain ⟨a', b'⟩ := k.settled n (a ▸ hs)
    exact ⟨a'.trans a, b'.trans b⟩
  unsettled n := k.unsettled n ∘ h.unsettled n
  stillOpen n := k.stillOpen n ∘ h.stillOpen n
  failRun n := (k.failRun n).trans (h.failRun n)
  notices src kind hk := (k.notices src kind hk).trans (h.notices src kind hk)

theorem WorkKeeps.refl (s : State) : WorkKeeps s s :=
  { RecordsKept.refl s with flushes := rfl, lost := rfl, sectorsLost := rfl, placement := List.prefix_refl _ }

theorem WorkKeeps.trans {s t u : State} (h : WorkKeeps s t) (k : WorkKeeps t u) : WorkKeeps s u :=
  { h.toRecordsKept.trans k.toRecordsKept with
    flushes := k.flushes.trans h.flushes
    lost := k.lost.trans h.lost
    sectorsLost := k.sectorsLost.trans h.sectorsLost
    placement := h.placement.trans k.placement }

/-! ## One move -/

theorem WorkKeeps.setTenant {s : State} {t v} (m : TenantMove (s.tenant t) v) : WorkKeeps s (s.setTenant t v) :=
  { WorkKeeps.refl s with
    active := fun n => by
      rw [setTenant_tenant]; split
      · subst_vars; exact m.active
      · rfl
    balance := fun n _ => by
      rw [setTenant_tenant]; split
      · subst_vars; exact m.balance
      · rfl
    accepted := fun n => by
      rw [setTenant_tenant]; split
      · subst_vars; exact m.accepted
      · rfl
    placed := fun n => by
      rw [setTenant_tenant]; split
      · subst_vars; exact m.placed
      · rfl
    mapClamps := fun n => by
      rw [setTenant_tenant]; split
      · subst_vars; exact m.mapClamps
      · rfl
    undrained := fun n h1 h2 => by
      rw [setTenant_tenant]; split
      · subst_vars; exact ⟨m.state, m.pendingPolicy, m.watch⟩
      · exact ⟨rfl, rfl, rfl⟩
    gone := fun n h => by
      rw [setTenant_tenant]; split
      · subst_vars; rw [m.state]; exact h
      · exact h
    withdrawn := fun n h => by
      rw [setTenant_tenant]; split
      · subst_vars; rw [m.pendingPolicy]; exact h
      · exact h }

/-- A tenant that leaves: its state, its pending record, its watch record and its drain record change (R22, R173). -/
theorem WorkKeeps.leaves {s : State} {t : Nat} {st : TenantState} {p w d}
    (hs : (s.tenant t).state = .draining ∨ (s.tenant t).state = .removed) (hst : st.isGone = true)
    (hp : (s.tenant t).pendingPolicy = none → p = none) :
    WorkKeeps s (s.setTenant t { s.tenant t with state := st, pendingPolicy := p, watch := w, drain := d }) := by
  have other : ∀ {α : Type} (f : Tenant → α),
      (∀ (v : Tenant), f { v with state := st, pendingPolicy := p, watch := w, drain := d } = f v) → ∀ k,
      f ((s.setTenant t { s.tenant t with state := st, pendingPolicy := p, watch := w, drain := d }).tenant k) =
        f (s.tenant k) := by
    intro α f hf k
    rw [setTenant_tenant]
    split
    · subst_vars; exact hf _
    · rfl
  exact { WorkKeeps.refl s with
    active := other Tenant.active (fun _ => rfl)
    balance := fun k _ => other Tenant.credit (fun _ => rfl) k
    accepted := other (fun v => v.counters.accepted) (fun _ => rfl)
    placed := other (fun v => v.counters.placed) (fun _ => rfl)
    mapClamps := other (fun v => v.counters.mapClamps) (fun _ => rfl)
    undrained := fun k h1 h2 => by
      rw [setTenant_tenant]; split
      · subst_vars; exact absurd hs (by simp [h1, h2])
      · exact ⟨rfl, rfl, rfl⟩
    gone := fun k hk => by
      rw [setTenant_tenant]; split
      · exact hst
      · exact hk
    withdrawn := fun k hk => by
      rw [setTenant_tenant]; split
      · subst_vars; exact hp hk
      · exact hk }

theorem WorkKeeps.setCredit {s : State} {t n} (hq : s.queueOf t ≠ []) :
    WorkKeeps s (s.setTenant t { s.tenant t with credit := n }) := by
  have same : ∀ k, ∃ c, (s.setTenant t { s.tenant t with credit := n }).tenant k = { s.tenant k with credit := c } := by
    intro k
    rw [setTenant_tenant]
    split
    · subst_vars; exact ⟨_, rfl⟩
    · exact ⟨_, rfl⟩
  have other : ∀ {α : Type} (f : Tenant → α), (∀ (v : Tenant) c, f { v with credit := c } = f v) → ∀ k,
      f ((s.setTenant t { s.tenant t with credit := n }).tenant k) = f (s.tenant k) := by
    intro α f hf k
    obtain ⟨c, e⟩ := same k
    rw [e, hf]
  exact { WorkKeeps.refl s with
    active := other Tenant.active (fun _ _ => rfl)
    balance := fun k hk => by rw [setTenant_tenant, if_neg (fun e : k = t => hq (e ▸ hk))]
    accepted := other (fun v => v.counters.accepted) (fun _ _ => rfl)
    placed := other (fun v => v.counters.placed) (fun _ _ => rfl)
    mapClamps := other (fun v => v.counters.mapClamps) (fun _ _ => rfl)
    undrained := fun k _ _ => ⟨other Tenant.state (fun _ _ => rfl) k, other Tenant.pendingPolicy (fun _ _ => rfl) k,
      other Tenant.watch (fun _ _ => rfl) k⟩
    gone := fun k hk => by
      have e := other Tenant.state (fun _ _ => rfl) k
      exact e ▸ hk
    withdrawn := fun k hk => (other Tenant.pendingPolicy (fun _ _ => rfl) k).trans hk }

theorem WorkKeeps.setStream {s : State} {t x v} (m : StreamMove (s.stream t x) v) : WorkKeeps s (s.setStream t x v) :=
  { WorkKeeps.refl s with
    streamAccepted := fun n y => by
      rw [setStream_stream]; split
      · rename_i e; rw [m.accepted, State.stream, State.stream, e]
      · rfl
    streamPlaced := fun n y => by
      rw [setStream_stream]; split
      · rename_i e; rw [m.placed, State.stream, State.stream, e]
      · rfl }

theorem WorkKeeps.setLane {s : State} {l v} (m : v.failRun = (s.lane l).failRun) : WorkKeeps s (s.setLane l v) :=
  { WorkKeeps.refl s with
    failRun := fun n => by
      rw [setLane_lane]; split
      · subst_vars; exact m
      · rfl }

theorem WorkKeeps.setUnit {s : State} {u v} (m : UnitMove (s.unit u) v) : WorkKeeps s (s.setUnit u v) :=
  { WorkKeeps.refl s with
    valid := fun n => by
      rw [setUnit_unit]; split
      · subst_vars; exact m.valid
      · rfl
    programmed := fun n => by
      rw [setUnit_unit]; split
      · subst_vars; exact m.programmed
      · rfl
    sealEpoch := fun n => by
      rw [setUnit_unit]; split
      · subst_vars; exact m.sealEpoch
      · rfl
    failed := fun n => by
      rw [setUnit_unit]; split
      · subst_vars; exact m.failed
      · rfl
    settled := fun n hs => by
      rw [setUnit_unit]; split
      · subst_vars; exact m.settled hs
      · exact ⟨rfl, rfl⟩
    unsettled := fun n hs => by
      rw [setUnit_unit]; split
      · subst_vars; exact m.unsettled hs
      · exact hs
    stillOpen := fun n hs => by
      rw [setUnit_unit]; split
      · subst_vars; exact m.stillOpen hs
      · exact hs }

/-! ## Notices -/

theorem find_repeat (kind k : NoticeKind) (d : BitVec 32) (hk : k ≠ kind) (l : List NoticeEntry) :
    (l.map (repeatNotice kind d)).find? (fun e => e.kind = k) = l.find? (fun e => e.kind = k) := by
  induction l with
  | nil => rfl
  | cons e rest ih =>
    have hkind : (repeatNotice kind d e).kind = e.kind := by
      unfold repeatNotice; split <;> rfl
    by_cases h : e.kind = k
    · have : repeatNotice kind d e = e := by
        unfold repeatNotice
        rw [if_neg (by rw [h]; exact hk)]
      simp [h, this]
    · simp [h, hkind, ih]

theorem find_insert (e : NoticeEntry) (k : NoticeKind) (hk : k ≠ e.kind) (l : List NoticeEntry) :
    (insertNotice e l).find? (fun x => x.kind = k) = l.find? (fun x => x.kind = k) := by
  induction l with
  | nil => simp [insertNotice, Ne.symm hk]
  | cons x rest ih =>
    unfold insertNotice
    split
    · simp [List.find?_cons, Ne.symm hk]
    · simp only [List.find?_cons, ih]

/-- The pending sets after a posting (R11). -/
theorem post_pendingSet (s : State) (src : Nat) (kind : NoticeKind) (d : BitVec 32) (n : Nat) :
    (s.post src kind d).pendingSet n =
      if n = src then
        (if (s.pendingSet src).any (fun e => e.kind = kind) then (s.pendingSet src).map (repeatNotice kind d)
          else insertNotice ⟨kind, 1, d⟩ (s.pendingSet src))
      else s.pendingSet n := by
  unfold State.post
  dsimp only
  split
  · rw [setPendingSet_pendingSet]
  · split
    · exact setPendingSet_pendingSet s src _ n
    · rw [setPendingSet_pendingSet]

theorem post_pendingOf (s : State) (src : Nat) (kind : NoticeKind) (d : BitVec 32) (n : Nat) (k : NoticeKind)
    (h : n ≠ src ∨ k ≠ kind) : (s.post src kind d).pendingOf n k = s.pendingOf n k := by
  unfold State.pendingOf
  rw [post_pendingSet]
  by_cases hn : n = src
  · subst hn
    have hk : k ≠ kind := h.resolve_left (fun h => h rfl)
    rw [if_pos rfl]
    split
    · exact find_repeat kind k d hk _
    · exact find_insert _ k hk _
  · rw [if_neg hn]

theorem WorkKeeps.post {s : State} {src kind d} (hk : kind.isInternal = true) : WorkKeeps s (s.post src kind d) := by
  have hp : ∀ n k, k.isInternal = false → (s.post src kind d).pendingOf n k = s.pendingOf n k :=
    fun n k h => post_pendingOf s src kind d n k (Or.inr (fun e => by rw [e, hk] at h; cases h))
  obtain ⟨n, a, e⟩ := post_eq s src kind d
  rw [e] at hp ⊢
  exact { WorkKeeps.refl s with notices := hp }

/-! ## Frames -/

theorem modFirst_keeps (t : Nat) (g : Frame → Frame) (hg : ∀ f, SameFrame f (g f)) (l : List Frame) :
    (∀ f ∈ l, ∃ k ∈ modFirst t g l, SameFrame f k) ∧ (∀ k ∈ modFirst t g l, ∃ f ∈ l, SameFrame f k)
      ∧ (modFirst t g l).length = l.length := by
  induction l with
  | nil => exact ⟨fun f hf => absurd hf (List.not_mem_nil), fun f hf => absurd hf (List.not_mem_nil), rfl⟩
  | cons f rest ih =>
    unfold modFirst
    split
    · refine ⟨fun k hk => ?_, fun k hk => ?_, by simp⟩ <;> rcases List.mem_cons.mp hk with rfl | hk
      · exact ⟨g k, by simp, hg k⟩
      · exact ⟨k, by simp [hk], SameFrame.refl k⟩
      · exact ⟨f, by simp, hg f⟩
      · exact ⟨k, by simp [hk], SameFrame.refl k⟩
    · refine ⟨fun k hk => ?_, fun k hk => ?_, by simp [ih.2.2]⟩ <;> rcases List.mem_cons.mp hk with rfl | hk
      · exact ⟨k, by simp, SameFrame.refl k⟩
      · obtain ⟨j, hj, hs⟩ := ih.1 k hk
        exact ⟨j, by simp [hj], hs⟩
      · exact ⟨k, by simp, SameFrame.refl k⟩
      · obtain ⟨j, hj, hs⟩ := ih.2.1 k hk
        exact ⟨j, by simp [hj], hs⟩

theorem WorkKeeps.modHead {s : State} {t g} (hg : ∀ f, SameFrame f (g f)) : WorkKeeps s (s.modHead t g) :=
  { WorkKeeps.refl s with
    frames := fun f hf => Or.inl ((modFirst_keeps t g hg s.intake).1 f hf)
    came := (modFirst_keeps t g hg s.intake).2.1
    fewer := le_of_eq (modFirst_keeps t g hg s.intake).2.2 }

theorem WorkKeeps.leave {s : State} {p : Frame → Bool} {rs : List Reply}
    (hr : ∀ f ∈ s.intake.filter p, ∃ r ∈ rs, r.tag = f.tag) :
    WorkKeeps s { s with intake := s.intake.filter (fun f => !p f), replies := s.replies ++ rs } :=
  { WorkKeeps.refl s with
    replies := List.prefix_append _ _
    frames := fun f hf => by
      cases hp : p f
      · exact Or.inl ⟨f, List.mem_filter.mpr ⟨hf, by simp [hp]⟩, SameFrame.refl f⟩
      · obtain ⟨r, h, ht⟩ := hr f (List.mem_filter.mpr ⟨hf, hp⟩)
        exact Or.inr ⟨r, List.mem_append_right _ h, ht⟩
    came := fun g hg => ⟨g, (List.mem_filter.mp hg).1, SameFrame.refl g⟩
    fewer := List.length_filter_le _ _ }

/-! ## All moves -/

/-- Every internal event, and the end of every command, keeps what WorkKeeps names. -/
theorem closed_workKeeps (s₀ : State) : ClosedToEnd (WorkKeeps s₀) where
  removed hs h := h.trans (WorkKeeps.leaves (Or.inl hs) rfl id)
  vacant hs h := h.trans (WorkKeeps.leaves (Or.inr hs) rfl (fun _ => rfl))
  setTenant m h := h.trans (.setTenant m)
  setCredit hq _ h := h.trans (.setCredit hq)
  setStream m h := h.trans (.setStream m)
  setLane m h := h.trans (.setLane m)
  setUnit m h := h.trans (.setUnit m)
  setDie h := h.trans { WorkKeeps.refl _ with }
  setPool h := h.trans { WorkKeeps.refl _ with }
  recency h := h.trans { WorkKeeps.refl _ with }
  laneWait h := h.trans { WorkKeeps.refl _ with }
  parked h := h.trans { WorkKeeps.refl _ with }
  unitWait h := h.trans { WorkKeeps.refl _ with }
  work h := h.trans { WorkKeeps.refl _ with }
  ordersSent h := h.trans { WorkKeeps.refl _ with }
  sent h := h.trans { WorkKeeps.refl _ with }
  reserved _ h := h.trans { WorkKeeps.refl _ with placement := List.prefix_append _ _ }
  scan ht h := h.trans { WorkKeeps.refl _ with scan := fun _ hn => absurd ht hn }
  triggerIgnored h := h.trans { WorkKeeps.refl _ with }
  post hk h := h.trans (.post hk)
  modHead hg h := h.trans (.modHead hg)
  leave _ hr h := h.trans (.leave hr)
  endHolding hd h := h.trans
    { WorkKeeps.refl _ with device := fun hn => absurd hd hn, scan := fun hn => absurd hd hn }
  resumeScan hd h := h.trans
    { WorkKeeps.refl _ with device := fun hn => absurd hd hn, scan := fun hn => absurd hd hn }

theorem RecordsKept.lowerFlush (s : State) (lost : Bool) (slot : Nat) : RecordsKept s (State.lowerFlush lost s slot) := by
  unfold State.lowerFlush
  split
  · exact RecordsKept.refl s
  · dsimp only
    split
    · exact { RecordsKept.refl s with
        replies := List.prefix_append _ _
        frames := fun f hf => Or.inl ⟨f, hf, SameFrame.refl f⟩
        came := fun g hg => ⟨g, hg, SameFrame.refl g⟩ }
    · exact { RecordsKept.refl s with }

/-- The loss of halves keeps what RecordsKept names. -/
theorem closed_recordsKept (s₀ : State) : ClosedToLoss (RecordsKept s₀) where
  setTenant m h := h.trans (WorkKeeps.setTenant m).toRecordsKept
  setCredit hq _ h := h.trans (WorkKeeps.setCredit hq).toRecordsKept
  setStream m h := h.trans (WorkKeeps.setStream m).toRecordsKept
  setLane m h := h.trans (WorkKeeps.setLane m).toRecordsKept
  setUnit m h := h.trans (WorkKeeps.setUnit m).toRecordsKept
  setDie h := h.trans { RecordsKept.refl _ with }
  setPool h := h.trans { RecordsKept.refl _ with }
  recency h := h.trans { RecordsKept.refl _ with }
  laneWait h := h.trans { RecordsKept.refl _ with }
  parked h := h.trans { RecordsKept.refl _ with }
  unitWait h := h.trans { RecordsKept.refl _ with }
  work h := h.trans { RecordsKept.refl _ with }
  ordersSent h := h.trans { RecordsKept.refl _ with }
  sent h := h.trans { RecordsKept.refl _ with }
  reserved _ h := h.trans { RecordsKept.refl _ with }
  scan ht h := h.trans { RecordsKept.refl _ with scan := fun _ hn => absurd ht hn }
  triggerIgnored h := h.trans { RecordsKept.refl _ with }
  post hk h := h.trans (WorkKeeps.post hk).toRecordsKept
  modHead hg h := h.trans (WorkKeeps.modHead hg).toRecordsKept
  leave _ hr h := h.trans (WorkKeeps.leave hr).toRecordsKept
  lowerFlush h := h.trans (.lowerFlush _ _ _)
  countLost h := h.trans { RecordsKept.refl _ with }
  dropEntries h := h.trans { RecordsKept.refl _ with }
  groupPtr h := h.trans { RecordsKept.refl _ with }
  abandon hd h := h.trans { RecordsKept.refl _ with scan := fun hn => absurd hd hn }

theorem closedToEnd_recordsKept (s₀ : State) : ClosedToEnd (RecordsKept s₀) :=
  { (closed_recordsKept s₀).toClosed with
    removed := fun hs h => h.trans (WorkKeeps.leaves (Or.inl hs) rfl id).toRecordsKept
    vacant := fun hs h => h.trans (WorkKeeps.leaves (Or.inr hs) rfl (fun _ => rfl)).toRecordsKept
    endHolding := fun hd h => h.trans
      { RecordsKept.refl _ with device := fun hn => absurd hd hn, scan := fun hn => absurd hd hn }
    resumeScan := fun hd h => h.trans
      { RecordsKept.refl _ with device := fun hn => absurd hd hn, scan := fun hn => absurd hd hn } }

/-! ## The shared ends of a command -/

/-- Everything the internal events do leaves these records as they were (log 8). -/
theorem runWork_keeps (s : State) : WorkKeeps s s.runWork := (closed_workKeeps s).toClosed.runWork (.refl s)

/-- So does the end of a command (log 20). -/
theorem conclude_keeps (s : State) : WorkKeeps s s.conclude := (closed_workKeeps s).conclude (.refl s)

theorem WorkKeeps.reply (s : State) (tag : BitVec 16) (st : Status) (b : ReplyBody) : WorkKeeps s (s.reply tag st b) :=
  { WorkKeeps.refl s with
    replies := List.prefix_append _ _
    frames := fun f hf => Or.inl ⟨f, hf, SameFrame.refl f⟩
    came := fun g hg => ⟨g, hg, SameFrame.refl g⟩ }

/-- A reply formed before the end of a command is there after it (R4). -/
theorem mem_reply_conclude (s : State) (tag : BitVec 16) (st : Status) (b : ReplyBody) :
    (⟨tag, st, b⟩ : Reply) ∈ (s.reply tag st b).conclude.replies :=
  (conclude_keeps _).replies.subset (by simp [reply_replies])

/-- A removal that aborts leaves no frame of the tenant, and answers each of them ABORTED (R167). -/
theorem abortQueue_empties (s : State) (t : Nat) :
    (∀ g ∈ (s.abortQueue t).intake, g.tenant ≠ t)
      ∧ ∀ f ∈ s.queueOf t, (⟨f.tag, .aborted, .write f.stream f.staged⟩ : Reply) ∈ (s.abortQueue t).replies := by
  unfold State.abortQueue
  rw [endFrames_eq]
  constructor
  · intro g hg
    rw [Closed.refundAll_intake] at hg
    simpa using (List.mem_filter.mp hg).2
  · intro f hf
    exact List.mem_append_right _ (List.mem_map.mpr ⟨f, hf, rfl⟩)

theorem runWork_device (s : State) : s.runWork.device = s.device :=
  (closed_device s.device).runWork rfl

end Sys2Proof.Machine
end

