-- ==== Sys2Proof/Laws/Invariants.lean ====
section
/-! SUPPORT. The invariants of Safety.lean under the moves of internal events, under the end of a hold-up flush, and under
the loss of halves. -/

namespace Sys2Proof.Machine

/-- A property that internal events, the end of a hold-up flush and the loss of halves all keep. -/
structure ClosedToAll (P : State → Prop) : Prop extends ClosedToEnd P, ClosedToLoss P

/-! ## Sizes -/

theorem filter_split (p : Frame → Bool) (l : List Frame) :
    (l.filter (fun f => !p f)).length + (l.filter p).length = l.length := by
  induction l with
  | nil => rfl
  | cons f rest ih =>
    cases h : p f <;> simp [h] <;> omega

/-- Internal events answer what leaves a queue, and nothing else, so the load never rises. -/
theorem closed_bounded (room : Nat) : ClosedToAll (State.Bounded room) where
  setTenant _ h := ⟨h.load, h.writes, h.controls, h.credit, h.placement, h.working, h.nominations⟩
  setCredit _ _ h := ⟨h.load, h.writes, h.controls, h.credit, h.placement, h.working, h.nominations⟩
  removed _ h := ⟨h.load, h.writes, h.controls, h.credit, h.placement, h.working, h.nominations⟩
  vacant _ h := ⟨h.load, h.writes, h.controls, h.credit, h.placement, h.working, h.nominations⟩
  setStream _ h := ⟨h.load, h.writes, h.controls, h.credit, h.placement, h.working, h.nominations⟩
  setLane _ h := ⟨h.load, h.writes, h.controls, h.credit, h.placement, h.working, h.nominations⟩
  setUnit _ h := ⟨h.load, h.writes, h.controls, h.credit, h.placement, h.working, h.nominations⟩
  setDie h := ⟨h.load, h.writes, h.controls, h.credit, h.placement, h.working, h.nominations⟩
  setPool h := ⟨h.load, h.writes, h.controls, h.credit, h.placement, h.working, h.nominations⟩
  recency h := ⟨h.load, h.writes, h.controls, h.credit, h.placement, h.working, h.nominations⟩
  laneWait h := ⟨h.load, h.writes, h.controls, h.credit, h.placement, h.working, h.nominations⟩
  parked h := ⟨h.load, h.writes, h.controls, h.credit, h.placement, h.working, h.nominations⟩
  unitWait h := ⟨h.load, h.writes, h.controls, h.credit, h.placement, h.working, h.nominations⟩
  work h := ⟨h.load, h.writes, h.controls, h.credit, h.placement, h.working, h.nominations⟩
  ordersSent h := ⟨h.load, h.writes, h.controls, h.credit, h.placement, h.working, h.nominations⟩
  sent h := ⟨h.load, h.writes, h.controls, h.credit, h.placement, h.working, h.nominations⟩
  reserved hr h := ⟨h.load, h.writes, h.controls, h.credit, by simpa using hr, h.working, h.nominations⟩
  scan _ h := ⟨h.load, h.writes, h.controls, h.credit, h.placement, Nat.zero_le _, h.nominations⟩
  triggerIgnored h := ⟨h.load, h.writes, h.controls, h.credit, h.placement, h.working, h.nominations⟩
  post {s src kind d} _ h := by
    obtain ⟨n, a, e⟩ := post_eq s src kind d
    rw [e]
    exact ⟨h.load, h.writes, h.controls, h.credit, h.placement, h.working, h.nominations⟩
  modHead {s t g} hg h := by
    have hl : (modFirst t g s.intake).length = s.intake.length := (modFirst_keeps t g hg s.intake).2.2
    refine ⟨?_, ?_, h.controls, h.credit, h.placement, h.working, h.nominations⟩
    · show s.replies.length + (modFirst t g s.intake).length + s.flushes.length ≤ room
      rw [hl]; exact h.load
    · show (modFirst t g s.intake).length ≤ _
      rw [hl]; exact h.writes
  leave {s p rs} hl _ h := by
    have := filter_split p s.intake
    have h1 := h.load
    have h2 := h.writes
    unfold State.load at h1
    refine ⟨?_, ?_, h.controls, h.credit, h.placement, h.working, h.nominations⟩
    · show (s.replies ++ rs).length + (s.intake.filter (fun f => !p f)).length + s.flushes.length ≤ room
      rw [List.length_append, hl]
      omega
    · show (s.intake.filter (fun f => !p f)).length ≤ _
      omega
  endHolding _ h := ⟨h.load, h.writes, h.controls, h.credit, h.placement, h.working, h.nominations⟩
  resumeScan _ h := ⟨h.load, h.writes, h.controls, h.credit, h.placement, Nat.zero_le _, h.nominations⟩
  lowerFlush {s lost slot} h := by
    have h1 := h.load
    have h2 := h.controls
    unfold State.load at h1
    unfold State.lowerFlush
    split
    · exact h
    · rename_i f hf
      have hm : f ∈ s.flushes := List.mem_of_find?_eq_some hf
      have hs : f.slot = slot := by simpa using List.find?_some hf
      have hlt : (s.flushes.filter (fun g => g.slot ≠ slot)).length < s.flushes.length :=
        List.length_filter_lt_length_iff_exists.mpr ⟨f, hm, by simp [hs]⟩
      dsimp only
      split
      · refine ⟨?_, h.writes, ?_, h.credit, h.placement, h.working, h.nominations⟩
        · show (s.replies ++ [_]).length + s.intake.length + (s.flushes.filter (fun g => g.slot ≠ slot)).length ≤ room
          rw [List.length_append, List.length_singleton]
          omega
        · exact le_trans (le_of_lt hlt) h2
      · refine ⟨?_, h.writes, ?_, h.credit, h.placement, h.working, h.nominations⟩
        · show s.replies.length + s.intake.length + (s.flushes.map _).length ≤ room
          rw [List.length_map]
          exact h1
        · show (s.flushes.map _).length ≤ _
          rw [List.length_map]
          exact h2
  countLost h := ⟨h.load, h.writes, h.controls, h.credit, h.placement, h.working, h.nominations⟩
  dropEntries h := ⟨h.load, h.writes, h.controls, h.credit, le_trans (List.length_filter_le _ _) h.placement, h.working,
    h.nominations⟩
  groupPtr h := ⟨h.load, h.writes, h.controls, h.credit, h.placement, h.working, h.nominations⟩
  abandon _ h := ⟨h.load, h.writes, h.controls, h.credit, h.placement, Nat.zero_le _, h.nominations⟩

/-! ## The form of the tables -/

theorem State.Canonical.setNotices {s : State} (h : s.Canonical) {n : Table (List NoticeEntry)} {a : List Nat}
    (hn : tableWf [] n = true) : ({ s with notices := n, attention := a } : State).Canonical :=
  ⟨h.tenants, h.streams, h.lanes, h.units, h.dies, h.pools, hn, h.groupPos⟩

theorem post_notices_wf {s : State} (src : Nat) (kind : NoticeKind) (d : BitVec 32) (h : tableWf [] s.notices = true) :
    tableWf [] (s.post src kind d).notices = true := by
  unfold State.post
  dsimp only
  split
  · exact tableWf_putRow _ _ _ _ h
  · split <;> exact tableWf_putRow _ _ _ _ h

/-- Posting a notice keeps the tables in their form. -/
theorem State.Canonical.post {s : State} (h : s.Canonical) (src : Nat) (kind : NoticeKind) (d : BitVec 32) :
    (s.post src kind d).Canonical := by
  have hw := post_notices_wf src kind d h.notices
  obtain ⟨n, a, e⟩ := post_eq s src kind d
  rw [e] at hw ⊢
  exact h.setNotices hw

theorem State.Canonical.setTenant {s : State} (h : s.Canonical) (t : Nat) (v : Tenant) : (s.setTenant t v).Canonical :=
  ⟨tableWf_putRow _ _ _ _ h.tenants, h.streams, h.lanes, h.units, h.dies, h.pools, h.notices, h.groupPos⟩

/-- Every move writes tables row by row, so each stays in its form. -/
theorem closed_canonical : ClosedToAll State.Canonical where
  setTenant _ h := h.setTenant _ _
  setCredit _ _ h := h.setTenant _ _
  removed _ h := h.setTenant _ _
  vacant _ h := h.setTenant _ _
  setStream _ h := ⟨h.tenants, tableWf_putRow _ _ _ _ h.streams, h.lanes, h.units, h.dies, h.pools, h.notices, h.groupPos⟩
  setLane _ h := ⟨h.tenants, h.streams, tableWf_putRow _ _ _ _ h.lanes, h.units, h.dies, h.pools, h.notices, h.groupPos⟩
  setUnit _ h := ⟨h.tenants, h.streams, h.lanes, tableWf_putRow _ _ _ _ h.units, h.dies, h.pools, h.notices, h.groupPos⟩
  setDie h := ⟨h.tenants, h.streams, h.lanes, h.units, tableWf_putRow _ _ _ _ h.dies, h.pools, h.notices, h.groupPos⟩
  setPool h := ⟨h.tenants, h.streams, h.lanes, h.units, h.dies, tableWf_putRow _ _ _ _ h.pools, h.notices, h.groupPos⟩
  recency h := ⟨h.tenants, h.streams, h.lanes, h.units, h.dies, h.pools, h.notices, h.groupPos⟩
  laneWait h := ⟨h.tenants, h.streams, h.lanes, h.units, h.dies, h.pools, h.notices, h.groupPos⟩
  parked h := ⟨h.tenants, h.streams, h.lanes, h.units, h.dies, h.pools, h.notices, h.groupPos⟩
  unitWait h := ⟨h.tenants, h.streams, h.lanes, h.units, h.dies, h.pools, h.notices, h.groupPos⟩
  work h := ⟨h.tenants, h.streams, h.lanes, h.units, h.dies, h.pools, h.notices, h.groupPos⟩
  ordersSent h := ⟨h.tenants, h.streams, h.lanes, h.units, h.dies, h.pools, h.notices, h.groupPos⟩
  sent h := ⟨h.tenants, h.streams, h.lanes, h.units, h.dies, h.pools, h.notices, tableWf_putRow _ _ _ _ h.groupPos⟩
  reserved _ h := ⟨h.tenants, h.streams, h.lanes, h.units, h.dies, h.pools, h.notices, h.groupPos⟩
  scan _ h := ⟨h.tenants, h.streams, h.lanes, h.units, h.dies, h.pools, h.notices, h.groupPos⟩
  triggerIgnored h := ⟨h.tenants, h.streams, h.lanes, h.units, h.dies, h.pools, h.notices, h.groupPos⟩
  post _ h := h.post _ _ _
  modHead _ h := ⟨h.tenants, h.streams, h.lanes, h.units, h.dies, h.pools, h.notices, h.groupPos⟩
  leave _ _ h := ⟨h.tenants, h.streams, h.lanes, h.units, h.dies, h.pools, h.notices, h.groupPos⟩
  endHolding _ h := ⟨h.tenants, h.streams, h.lanes, h.units, h.dies, h.pools, h.notices, h.groupPos⟩
  resumeScan _ h := ⟨h.tenants, h.streams, h.lanes, h.units, h.dies, h.pools, h.notices, h.groupPos⟩
  lowerFlush {s lost slot} h := by
    unfold State.lowerFlush
    split
    · exact h
    · dsimp only
      split <;> exact ⟨h.tenants, h.streams, h.lanes, h.units, h.dies, h.pools, h.notices, h.groupPos⟩
  countLost h := ⟨h.tenants, h.streams, h.lanes, h.units, h.dies, h.pools, h.notices, h.groupPos⟩
  dropEntries h := ⟨h.tenants, h.streams, h.lanes, h.units, h.dies, h.pools, h.notices, h.groupPos⟩
  groupPtr h := ⟨h.tenants, h.streams, h.lanes, h.units, h.dies, h.pools, h.notices, h.groupPos⟩
  abandon _ h := ⟨h.tenants, h.streams, h.lanes, h.units, h.dies, h.pools, h.notices, h.groupPos⟩

/-! ## The attention list -/

theorem insertNotice_ne (e : NoticeEntry) (l : List NoticeEntry) : insertNotice e l ≠ [] := by
  cases l with
  | nil => simp [insertNotice]
  | cons x rest => unfold insertNotice; split <;> simp

theorem post_attention (s : State) (src : Nat) (kind : NoticeKind) (d : BitVec 32) :
    (s.post src kind d).attention = if s.pendingSet src = [] then s.attention ++ [src] else s.attention := by
  unfold State.post
  dsimp only
  by_cases h : s.pendingSet src = []
  · simp [h]
  · split <;> simp [*]

/-- Posting a notice keeps the attention list true to the pending sets (R11). -/
theorem State.Attentive.post {s : State} (h : s.Attentive) (src : Nat) (kind : NoticeKind) (d : BitVec 32) :
    (s.post src kind d).Attentive := by
  refine ⟨?_, fun n => ?_⟩
  · rw [post_attention]
    split
    · rename_i he
      refine List.nodup_append.mpr ⟨h.once, by simp, ?_⟩
      intro a ha b hb e
      rw [List.mem_singleton] at hb
      subst hb
      subst e
      exact (h.exactly _).mp ha he
    · exact h.once
  · rw [post_attention, post_pendingSet]
    by_cases hn : n = src
    · subst hn
      rw [if_pos rfl]
      by_cases he : s.pendingSet n = []
      · simp [he, insertNotice]
      · rw [if_neg he]
        have hm := (h.exactly n).mpr he
        refine ⟨fun _ => ?_, fun _ => hm⟩
        split
        · simpa using he
        · exact insertNotice_ne _ _
    · rw [if_neg hn, ← h.exactly n]
      split <;> simp [hn]

theorem State.Attentive.of_same {s t : State} (h : s.Attentive) (ha : t.attention = s.attention)
    (hn : t.notices = s.notices) : t.Attentive := by
  refine ⟨ha ▸ h.once, fun n => ?_⟩
  rw [ha, h.exactly n, State.pendingSet, State.pendingSet, hn]

/-- Only postings touch the attention list and the pending sets. -/
theorem closed_attentive : ClosedToAll State.Attentive where
  setTenant _ h := h.of_same rfl rfl
  setCredit _ _ h := h.of_same rfl rfl
  removed _ h := h.of_same rfl rfl
  vacant _ h := h.of_same rfl rfl
  setStream _ h := h.of_same rfl rfl
  setLane _ h := h.of_same rfl rfl
  setUnit _ h := h.of_same rfl rfl
  setDie h := h.of_same rfl rfl
  setPool h := h.of_same rfl rfl
  recency h := h.of_same rfl rfl
  laneWait h := h.of_same rfl rfl
  parked h := h.of_same rfl rfl
  unitWait h := h.of_same rfl rfl
  work h := h.of_same rfl rfl
  ordersSent h := h.of_same rfl rfl
  sent h := h.of_same rfl rfl
  reserved _ h := h.of_same rfl rfl
  scan _ h := h.of_same rfl rfl
  triggerIgnored h := h.of_same rfl rfl
  post _ h := h.post _ _ _
  modHead _ h := h.of_same rfl rfl
  leave _ _ h := h.of_same rfl rfl
  endHolding _ h := h.of_same rfl rfl
  resumeScan _ h := h.of_same rfl rfl
  lowerFlush {s lost slot} h := by
    unfold State.lowerFlush
    split
    · exact h
    · dsimp only
      split <;> exact h.of_same rfl rfl
  countLost h := h.of_same rfl rfl
  dropEntries h := h.of_same rfl rfl
  groupPtr h := h.of_same rfl rfl
  abandon _ h := h.of_same rfl rfl

/-! ## Ranges -/

theorem State.InRange.of_same {s t : State} (h : s.InRange) (hs : t.settings = s.settings) (ht : t.tenants = s.tenants)
    (hc : t.counters = s.counters) (hx : t.streams = s.streams) (hu : t.units = s.units) : t.InRange := by
  refine ⟨hs ▸ h.settings, fun n => ?_, hc ▸ h.counters, fun n x => by
    have : t.stream n x = s.stream n x := by unfold State.stream; rw [hx]
    rw [this]
    exact h.streams n x, fun u => by
    have : t.unit u = s.unit u := by unfold State.unit; rw [hu]
    rw [this]
    exact h.units u⟩
  have : t.tenant n = s.tenant n := by unfold State.tenant; rw [ht]
  rw [this]
  exact h.tenants n

theorem State.InRange.setTenant {s : State} (h : s.InRange) {t : Nat} {v : Tenant} (hv : v.InRange) :
    (s.setTenant t v).InRange := by
  refine ⟨h.settings, fun n => ?_, h.counters, h.streams, h.units⟩
  rw [setTenant_tenant]
  split
  · exact hv
  · exact h.tenants n

theorem State.InRange.post {s : State} (h : s.InRange) (src : Nat) (kind : NoticeKind) (d : BitVec 32) :
    (s.post src kind d).InRange := by
  obtain ⟨n, a, e⟩ := post_eq s src kind d
  rw [e]
  exact h.of_same rfl rfl rfl rfl rfl

/-- Tenant moves keep each context in its ranges, and counters saturate. -/
theorem closed_inRange : ClosedToAll State.InRange where
  setTenant m h := h.setTenant (m.inRange (h.tenants _))
  setCredit _ hn h := h.setTenant ((h.tenants _).setCredit hn)
  removed {s t} _ h := by
    have v := h.tenants t
    exact h.setTenant ⟨v.active, v.pendingPolicy, v.credit, v.band, v.watch, v.counters⟩
  vacant {s t} _ h := by
    have v := h.tenants t
    exact h.setTenant
      ⟨v.active, fun p hp => (by cases hp), v.credit, v.band, lt_max_of_lt_right Nat.zero_lt_one, v.counters⟩
  setStream {s t x v} m h := by
    refine ⟨h.settings, h.tenants, h.counters, fun n y => ?_, h.units⟩
    rw [setStream_stream]
    split
    · have hv := h.streams t x
      exact ⟨m.accepted ▸ hv.accepted, m.placed ▸ hv.placed⟩
    · exact h.streams n y
  setLane _ h := h.of_same rfl rfl rfl rfl rfl
  setUnit {s u v} m h := by
    refine ⟨h.settings, h.tenants, h.counters, h.streams, fun n => ?_⟩
    rw [setUnit_unit]
    split
    · exact ⟨by rw [m.valid, m.programmed]; exact (h.units u).valid⟩
    · exact h.units n
  setDie h := h.of_same rfl rfl rfl rfl rfl
  setPool h := h.of_same rfl rfl rfl rfl rfl
  recency h := h.of_same rfl rfl rfl rfl rfl
  laneWait h := h.of_same rfl rfl rfl rfl rfl
  parked h := h.of_same rfl rfl rfl rfl rfl
  unitWait h := h.of_same rfl rfl rfl rfl rfl
  work h := h.of_same rfl rfl rfl rfl rfl
  ordersSent h := h.of_same rfl rfl rfl rfl rfl
  sent h := h.of_same rfl rfl rfl rfl rfl
  reserved _ h := h.of_same rfl rfl rfl rfl rfl
  scan _ h := h.of_same rfl rfl rfl rfl rfl
  triggerIgnored h := ⟨h.settings, h.tenants, ⟨h.counters.linkErrors, h.counters.staleReports, h.counters.programFails,
    h.counters.programTimeouts, bump_le _ _, h.counters.underruns, h.counters.invalidatesIgnored,
    h.counters.forcedReleases, h.counters.sectorsLost⟩, h.streams, h.units⟩
  post _ h := h.post _ _ _
  modHead _ h := h.of_same rfl rfl rfl rfl rfl
  leave _ _ h := h.of_same rfl rfl rfl rfl rfl
  endHolding _ h := h.of_same rfl rfl rfl rfl rfl
  resumeScan _ h := h.of_same rfl rfl rfl rfl rfl
  lowerFlush {s lost slot} h := by
    unfold State.lowerFlush
    split
    · exact h
    · dsimp only
      split <;> exact h.of_same rfl rfl rfl rfl rfl
  countLost h := ⟨h.settings, h.tenants, ⟨h.counters.linkErrors, h.counters.staleReports, h.counters.programFails,
    h.counters.programTimeouts, h.counters.triggersIgnored, h.counters.underruns, h.counters.invalidatesIgnored,
    h.counters.forcedReleases, bump_le _ _⟩, h.streams, h.units⟩
  dropEntries h := h.of_same rfl rfl rfl rfl rfl
  groupPtr h := h.of_same rfl rfl rfl rfl rfl
  abandon _ h := h.of_same rfl rfl rfl rfl rfl

end Sys2Proof.Machine
end

