-- ==== Sys2Proof/Laws/Link.lean ====
section
/-! SUPPORT. Taking a frame from the link: what the receiver and a control slot do to a request. -/

namespace Sys2Proof.Machine

/-- A frame of the right length that is taken goes on to its rule. -/
theorem receive_taken {s : State} (h : s.takesFrames) (act : State → State) : s.receive true act = act s.noteRx := by
  unfold State.receive
  simp [h.1, h.2]

/-- A frame of a wrong length is discarded (R2). -/
theorem receive_unfit {s : State} (h : s.takesFrames) (act : State → State) :
    s.receive false act = s.noteRx.discardFrame := by
  unfold State.receive
  simp [h.1, h.2]

/-- A frame that is not a LINK_RESYNC is discarded after a resync delimiter (R3). -/
theorem receive_armed {s : State} (hb : s.rxBlocked = false) (ha : s.resyncArmed = true) (fits : Bool)
    (act : State → State) :
    s.receive fits act = ({ s.noteRx with resyncArmed := false } : State).discardFrame := by
  unfold State.receive
  simp [hb, ha]

/-- Nothing is taken while the receiver is blocked (R4, R15). -/
theorem receive_blocked {s : State} (hb : s.rxBlocked = true) (fits : Bool) (act : State → State) :
    s.receive fits act = s := by
  unfold State.receive
  simp [hb]

/-- A control request that is taken goes on to its rule (R6). -/
theorem control_taken {s : State} (h : s.takesControl) (tag : BitVec 16) (act : State → State) :
    s.control tag true act = act s.noteRx := by
  unfold State.control
  rw [receive_taken h.1]
  exact if_neg (Nat.not_le.mpr h.2)

/-- With every control slot held, a control request is answered NO_SLOT (R6). -/
theorem control_full {s : State} (h : s.takesFrames) (hf : 16 ≤ s.flushes.length) (tag : BitVec 16)
    (act : State → State) : s.control tag true act = s.noteRx.reply tag .noSlot := by
  unfold State.control
  rw [receive_taken h]
  exact if_pos hf

/-- A tenant request past its first two checks goes on (R26). -/
theorem tenantRequest_taken {s : State} {tag tenant : BitVec 16} (hd : s.device ≠ .holding) (ht : tenant.toNat ≤ 1023)
    (act : State → State) : s.tenantRequest tag tenant act = act s := by
  have h1 : tenantIdOk tenant = true := by
    simp only [tenantIdOk, Config.tenantCount, decide_eq_true_eq]
    omega
  unfold State.tenantRequest State.tenantRefusal
  simp [hd, h1]

end Sys2Proof.Machine
end

