-- ==== Sys2Proof/Laws/Placing.lean ====
section
/-! SUPPORT. What the invariants Linked and Placed read of a state, and their notions on empty records: a command that writes
none of the fields they read keeps them. -/

namespace Sys2Proof.Machine

/-- An EMPTY half is formed. -/
theorem Half.formed_reset : Half.reset.Formed :=
  ⟨fun _ => rfl, fun e => (by cases e), fun e => (by rcases e with e | e <;> cases e), fun e => (by cases e),
    by simp [Half.reset]⟩

/-- A FREE lane has no half assigned. -/
@[simp] theorem Lane.assignedTo_reset (u : Nat) : Lane.reset.assignedTo u = 0 := by
  simp [Lane.assignedTo, Lane.reset, Half.reset]

/-- A lane has two halves to assign. -/
theorem Lane.assignedTo_le (v : Lane) (u : Nat) : v.assignedTo u ≤ 2 := List.countP_le_length

/-- Nothing stands on an IDLE die with an empty queue. -/
theorem State.stripesOn_idle {s : State} {d : Nat} (h : (s.die d).queue = []) (hb : (s.die d).busy = none) (u : Nat) :
    s.stripesOn d u = [] := by
  simp [State.stripesOn, h, hb]

/-- An ACTIVE or SUSPENDED tenant is open. -/
theorem Tenant.isOpen_of_isServed {v : Tenant} (h : v.isServed = true) : v.isOpen = true := by
  simp [Tenant.isOpen, h]

/-- Linked reads the device state, the group limit, the frames, the tenants, the streams, the lanes, the dies and the two wait
queues, and nothing else. -/
theorem State.Linked.of_same {s t : State} (h : s.Linked) (hv : t.device = s.device)
    (hs : t.settings = s.settings) (hi : t.intake = s.intake) (ht : t.tenants = s.tenants) (hx : t.streams = s.streams)
    (hl : t.lanes = s.lanes) (hd : t.dies = s.dies) (hw : t.laneWait = s.laneWait) (hu : t.unitWait = s.unitWait) :
    t.Linked := by
  have lane : t.lane = s.lane := by funext l; simp only [State.lane, hl]
  have stream : t.stream = s.stream := by funext n x; simp only [State.stream, hx]
  have tenant : t.tenant = s.tenant := by funext n; simp only [State.tenant, ht]
  have flight : t.inFlight = s.inFlight := by funext g; simp only [State.inFlight, State.die, hd]
  constructor
  · rw [hv, hd, hl, hw, hu, stream]; exact h.config
  · rw [hv, hi]; exact h.intake
  · rw [hi, tenant]; exact h.frames
  · rw [hw, stream, tenant]; exact h.laneWait
  · rw [lane, stream, tenant]; exact h.boundLane
  · rw [lane, stream]; exact h.boundStream
  · rw [lane, tenant]; exact h.laneOwner
  · rw [hv, tenant]; exact h.quota
  · rw [flight, hs]; exact h.inFlight

/-- Placed reads the device state, the lanes, the units, the dies, the parked units of the streams and the unit wait queue, and
nothing else. -/
theorem State.Placed.of_same {s t : State} (h : s.Placed) (hv : t.device = s.device) (hx : t.streams = s.streams)
    (hl : t.lanes = s.lanes) (hu : t.units = s.units) (hd : t.dies = s.dies) (hw : t.unitWait = s.unitWait) :
    t.Placed := by
  have lane : t.lane = s.lane := by funext l; simp only [State.lane, hl]
  have half : t.half = s.half := by funext l k; simp only [State.half, lane]
  have stream : t.stream = s.stream := by funext n x; simp only [State.stream, hx]
  have unit : t.unit = s.unit := by funext u; simp only [State.unit, hu]
  have die : t.die = s.die := by funext d; simp only [State.die, hd]
  have stripes : t.stripesOn = s.stripesOn := by
    funext d u
    simp only [State.stripesOn, die]
    congr 2
    funext e
    cases e <;> simp only [State.stripeOf, half]
  have asked : t.sealAsked = s.sealAsked := by funext u; simp only [State.sealAsked, State.sealInFlight, die]
  constructor
  · rw [half]; exact h.halves
  · rw [lane]; exact h.filling
  · rw [lane]; exact h.free
  · rw [lane, unit]; exact h.current
  · rw [lane]; exact h.currentOnce
  · rw [half, unit, lane]; exact h.assigned
  · rw [half]; exact h.assignedOnce
  · rw [die, half]; exact h.orders
  · rw [half, die]; exact h.programming
  · rw [die, half]; exact h.queues
  · rw [half, die]; exact h.full
  · rw [stripes]; exact h.rising
  · rw [stream, unit, asked]; exact h.parked
  · rw [asked, unit, lane]; exact h.sealing
  · rw [unit]; exact h.unused
  · rw [unit, lane]; exact h.programmed
  · rw [hw, lane]; exact h.unitWait
  · rw [lane, hw, hv]; exact h.waiting
  · rw [hv, half]; exact h.padded
  · rw [hv, lane]; exact h.noUnit

end Sys2Proof.Machine
end

