-- ==== Sys2Proof/Laws/Quiet.lean ====
section
/-! SUPPORT. A state in which nothing is left to be done passes the end of a command unchanged. -/

namespace Sys2Proof.Machine

theorem cascade_quiet {s : State} (hw : s.work = Work.empty) (hc : s.closeDue = none) (n : Nat) :
    State.cascade State.workStep n s = s := by
  cases n with
  | zero => rfl
  | succ n =>
    have h : s.workStep = none := by
      unfold State.workStep State.laneStepOnce
      simp [hw, Work.empty, hc]
    unfold State.cascade
    rw [h]

theorem runWork_quiet {s : State} (hw : s.work = Work.empty) (hc : s.closeDue = none) : s.runWork = s :=
  cascade_quiet hw hc _

theorem foldl_fixed {f : State → Nat → State} {s : State} (l : List Nat) (h : ∀ t ∈ l, f s t = s) : l.foldl f s = s := by
  induction l with
  | nil => rfl
  | cons a rest ih =>
    rw [List.foldl_cons, h a (by simp)]
    exact ih (fun t ht => h t (by simp [ht]))

theorem completeDrains_quiet {s : State} (h : ∀ t ∈ rowKeys s.tenants, s.drained t = false) : s.completeDrains = s :=
  foldl_fixed _ (fun t ht => by
    unfold State.completeDrain
    simp [h t ht])

/-- With nothing left to be done, the end of a command does nothing (logs 8, 20). -/
theorem conclude_quiet {s : State} (h : s.isQuiet) : s.conclude = s := by
  unfold State.conclude
  rw [runWork_quiet h.1 h.2.1]
  dsimp only
  rw [if_neg (fun hh => h.2.2.1 (by simpa using hh))]
  exact completeDrains_quiet h.2.2.2

theorem modFirst_tenants (t : Nat) (g : Frame → Frame) (hg : ∀ f, (g f).tenant = f.tenant) (l : List Frame) :
    (modFirst t g l).map Frame.tenant = l.map Frame.tenant := by
  induction l with
  | nil => rfl
  | cons f rest ih =>
    unfold modFirst
    split <;> simp [hg, ih]

/-- Whether a queue is empty does not depend on the progress of its frames. -/
theorem queueOf_nil_iff {s t : State} (h : t.intake.map Frame.tenant = s.intake.map Frame.tenant) (n : Nat) :
    t.queueOf n = [] ↔ s.queueOf n = [] := by
  have key : ∀ l : List Frame, l.filter (fun f => f.tenant = n) = [] ↔ n ∉ l.map Frame.tenant := by
    intro l
    simp [List.filter_eq_nil_iff]
  unfold State.queueOf
  rw [key, key, h]

/-- A change to the progress of a head leaves nothing new to be done. -/
theorem State.isQuiet.modHead {s : State} (h : s.isQuiet) (t : Nat) (g : Frame → Frame)
    (hg : ∀ f, (g f).tenant = f.tenant) : (s.modHead t g).isQuiet := by
  refine ⟨h.1, ?_, h.2.2.1, h.2.2.2⟩
  have hq := fun n => queueOf_nil_iff (s := s) (t := s.modHead t g) (modFirst_tenants t g hg s.intake) n
  have hc := h.2.1
  unfold State.closeDue at hc ⊢
  split
  · rfl
  · rename_i hd
    rw [if_neg (show ¬s.device = .holding from hd)] at hc
    rw [List.find?_eq_none] at hc ⊢
    intro n hn
    have := hc n hn
    simp only [Bool.and_eq_true, decide_eq_true_eq, not_and] at this ⊢
    exact fun hf => fun he => this hf ((hq n).mp he)

end Sys2Proof.Machine
end

