-- ==== Sys2Proof/Laws/Registry.lean ====
section
/-! SUPPORT. What the operations of the unit registry, the scanner, the supply pools, the watch unit and the media
dispatcher do, each said once. -/

namespace Sys2Proof.Machine

/-! ## Reading a record after an update that leaves its table alone -/

theorem tenant_of_tenants {s t : State} (h : t.tenants = s.tenants) (n : Nat) : t.tenant n = s.tenant n := by
  unfold State.tenant
  rw [h]

theorem stream_of_streams {s t : State} (h : t.streams = s.streams) (n x : Nat) : t.stream n x = s.stream n x := by
  unfold State.stream
  rw [h]

theorem lane_of_lanes {s t : State} (h : t.lanes = s.lanes) (n : Nat) : t.lane n = s.lane n := by
  unfold State.lane
  rw [h]

theorem unit_of_units {s t : State} (h : t.units = s.units) (n : Nat) : t.unit n = s.unit n := by
  unfold State.unit
  rw [h]

theorem pool_of_pools {s t : State} (h : t.pools = s.pools) (n : Nat) : t.pool n = s.pool n := by
  unfold State.pool
  rw [h]

/-! ## The change to VACANT -/

/-- Clearing a tenant's streams touches the stream contexts alone. -/
theorem resetStreams_eq (t : Nat) (l : List Nat) (s : State) :
    ∃ x, l.foldl (State.resetStream t) s = { s with streams := x } := by
  induction l generalizing s with
  | nil => exact ⟨_, rfl⟩
  | cons y rest ih =>
    obtain ⟨x, hx⟩ := ih (State.resetStream t s y)
    exact ⟨x, hx⟩

/-- A tenant that becomes VACANT keeps its counts and its records of units (R22). -/
theorem vacate_eq (s : State) (t : Nat) :
    ∃ x, s.vacate t =
      ({ s with streams := x } : State).modTenant t
        (fun v => { v with state := .vacant, pendingPolicy := none, watch := ⟨0, .none⟩, drain := none }) := by
  obtain ⟨x, hx⟩ := resetStreams_eq t allStreams s
  exact ⟨x, by unfold State.vacate; rw [hx]⟩

theorem vacate_units (s : State) (t : Nat) : (s.vacate t).units = s.units := by
  obtain ⟨x, hx⟩ := vacate_eq s t
  rw [hx]
  rfl

theorem vacate_counters (s : State) (t : Nat) : (s.vacate t).counters = s.counters := by
  obtain ⟨x, hx⟩ := vacate_eq s t
  rw [hx]
  rfl

theorem vacate_tenant (s : State) (t n : Nat) :
    (s.vacate t).tenant n =
      if n = t then { s.tenant t with state := .vacant, pendingPolicy := none, watch := ⟨0, .none⟩, drain := none }
      else s.tenant n := by
  obtain ⟨x, hx⟩ := vacate_eq s t
  rw [hx]
  exact modTenant_tenant _ _ _ _

/-! ## Release -/

/-- The owned-unit count of a former owner, and the change to VACANT at 0 (R128, R135). -/
theorem disown_tenant (s : State) (t : Nat) :
    ((s.disown t).tenant t).owned = (s.tenant t).owned - 1
      ∧ ((s.disown t).tenant t).state =
        if (s.tenant t).state = .removed ∧ (s.tenant t).owned - 1 = 0 then .vacant else (s.tenant t).state := by
  have h1 : (s.modTenant t (fun v => { v with owned := v.owned - 1 })).tenant t =
      { s.tenant t with owned := (s.tenant t).owned - 1 } := by simp [modTenant_tenant]
  unfold State.disown
  dsimp only
  rw [h1]
  by_cases h : (s.tenant t).state = .removed ∧ (s.tenant t).owned - 1 = 0
  · rw [if_pos (by simpa using h), if_pos h, vacate_tenant, if_pos rfl, h1]
    exact ⟨rfl, rfl⟩
  · rw [if_neg (by simpa using h), if_neg h, h1]
    exact ⟨rfl, rfl⟩

theorem disown_units (s : State) (t : Nat) : (s.disown t).units = s.units := by
  unfold State.disown
  dsimp only
  split
  · exact vacate_units _ _
  · rfl

theorem disown_counters (s : State) (t : Nat) : (s.disown t).counters = s.counters := by
  unfold State.disown
  dsimp only
  split
  · exact vacate_counters _ _
  · rfl

/-- A RECLAIMING unit released: its record, the device counters, and its former owner (R135). -/
theorem release_facts (s : State) (u : Nat) :
    (s.release u).unit u =
        { s.unit u with
          state := if (s.unit u).failed then .retired else .vacant
          owner := none, valid := 0, sealEpoch := none }
      ∧ (s.release u).counters = s.counters
      ∧ ∀ t x, (s.unit u).owner = some (t, x) →
        ((s.release u).tenant t).owned = (s.tenant t).owned - 1
        ∧ ((s.release u).tenant t).state =
          if (s.tenant t).state = .removed ∧ (s.tenant t).owned - 1 = 0 then .vacant else (s.tenant t).state := by
  unfold State.release
  dsimp only
  split
  · rename_i t x hh
    refine ⟨?_, disown_counters _ _, ?_⟩
    · rw [unit_of_units (disown_units _ _), modUnit_unit, if_pos rfl]
    · intro t' x' h
      rw [hh] at h
      cases h
      exact disown_tenant _ _
  · rename_i hh
    refine ⟨by rw [modUnit_unit, if_pos rfl], rfl, fun t x h => ?_⟩
    rw [hh] at h
    cases h

/-! ## Low water -/

/-- The low-water check may post, start a scan or count an ignored trigger (R96, R97). -/
theorem lowWaterCheck_units (s : State) (g : Nat) : (s.lowWaterCheck g).units = s.units := by
  unfold State.lowWaterCheck State.scanTrigger
  dsimp only
  split
  · split
    · split <;> simp [State.beginScan]
    · simp
  · rfl

theorem lowWaterCheck_pools (s : State) (g : Nat) : (s.lowWaterCheck g).pools = s.pools := by
  unfold State.lowWaterCheck State.scanTrigger
  dsimp only
  split
  · split
    · split <;> simp [State.beginScan]
    · simp
  · rfl

theorem lowWaterCheck_tenants (s : State) (g : Nat) : (s.lowWaterCheck g).tenants = s.tenants := by
  unfold State.lowWaterCheck State.scanTrigger
  dsimp only
  split
  · split
    · split <;> simp [State.beginScan]
    · simp
  · rfl

/-! ## Reclaim -/

/-- A unit reclaimed becomes RECLAIMING, and every other unit stays (R133). -/
theorem reclaim_unit (s : State) (u n : Nat) :
    (s.reclaim u).unit n = if n = u then { s.unit u with state := .reclaiming } else s.unit n := by
  have h : (s.reclaim u).units = (s.modUnit u (fun r => { r with state := .reclaiming })).units := rfl
  rw [unit_of_units h, modUnit_unit]

/-! ## Samples -/

/-- A sample touches the tenant's watch record and its notices (R163). -/
theorem sample_eq (s : State) (t : Nat) (source : WatchSource) (x : Nat) :
    ∃ w n a, s.sample t source x = { s.modTenant t (fun v => { v with watch := w }) with notices := n, attention := a }
      ∨ s.sample t source x = s := by
  unfold State.sample
  dsimp only
  split
  · unfold State.classifySample
    dsimp only
    split
    · obtain ⟨n, a, e⟩ := post_eq (s.modTenant t (fun v => { v with watch := ⟨0, .none⟩ })) t .watch
        (watchDetail ((s.tenant t).watch.after (sideOf (s.tenant t).active x)).side x)
      exact ⟨_, _, _, Or.inl e⟩
    · exact ⟨_, _, _, Or.inl rfl⟩
  · exact ⟨⟨0, .none⟩, [], [], Or.inr rfl⟩

theorem sample_tenant (s : State) (t : Nat) (source : WatchSource) (x n : Nat) :
    ∃ w, (s.sample t source x).tenant n = if n = t then { s.tenant t with watch := w } else s.tenant n := by
  obtain ⟨w, k, a, e | e⟩ := sample_eq s t source x
  · exact ⟨w, by rw [e]; exact modTenant_tenant s t (fun v => { v with watch := w }) n⟩
  · refine ⟨(s.tenant t).watch, ?_⟩
    rw [e]
    split
    · subst_vars; rfl
    · rfl

/-! ## Orders -/

/-- Sending an order touches the dies, the lane of the half, the placement queue, and the media pointers (R104). -/
theorem dispatch_eq (s : State) (d : Nat) :
    ∃ dies lanes placement pos sent rst, s.dispatch d =
      { s with
        dies := dies, lanes := lanes, placement := placement, groupPos := pos, ordersSent := sent, mdlRst := rst } := by
  unfold State.dispatch
  split
  · exact ⟨_, _, _, _, _, _, rfl⟩
  · rename_i e rest _
    rcases e with ⟨l, h⟩ | u
    · unfold State.reserve
      dsimp only
      split <;> exact ⟨_, _, _, _, _, _, rfl⟩
    · exact ⟨_, _, _, _, _, _, rfl⟩

/-- The room granted for a placement entry that has left: one dispatch at the most (R107). -/
theorem grantRoom_eq (s : State) :
    ∃ dies lanes placement pos sent rst ptr, s.grantRoom =
      { s with
        dies := dies, lanes := lanes, placement := placement, groupPos := pos, ordersSent := sent, mdlRst := rst
        groupPtr := ptr } := by
  unfold State.grantRoom
  dsimp only
  split
  · rename_i d _
    obtain ⟨a, b, c, e, f, g, h⟩ := dispatch_eq s d
    rw [h]
    exact ⟨_, _, _, _, _, _, _, rfl⟩
  · exact ⟨_, _, _, _, _, _, _, rfl⟩

end Sys2Proof.Machine
end

