-- ==== Sys2Proof/Tests/Slice0.lean ====
section
/-! SUPPORT. Small tests: ill-formed commands that the check refuses, one or two steps of each command, frames read by the
receiver, and for every statement with hypotheses a state and operands that meet them, clause by clause. -/

namespace Sys2Proof.Tests

open Sys2Proof.Machine

/-! ## Small states -/

/-- The state a command leaves, or the reset state where it leaves none. -/
def after (c : Instr) (s : State) : State :=
  match exec c s with
  | .next t => t
  | _ => State.reset

/-- The part after START. -/
def sRun : State := { State.reset with device := .running, epochTimer := some 100 }

def sHolding : State := { State.reset with device := .holding, holdLevel := true }

def sHeld : State := { State.reset with device := .held }

/-- An ACTIVE tenant under the record p. -/
def active (p : Policy) : Tenant := { Tenant.reset with state := .active, active := p, credit := p.allowance }

/-- A record under which a lane refuses when no unit is found. -/
def refusing : Policy := { Policy.reset with noUnit := .refuse }

/-- A record under credit. -/
def limited : Policy := { Policy.reset with allowance := 100 }

/-- sRun with tenant 5 in a given context. -/
def withTenant (v : Tenant) : State := sRun.setTenant 5 v

def sFive : State := withTenant (active Policy.reset)

/-- A frame of tenant 5 with one sector, tag 7. -/
def oneFrame : Frame := ⟨7, 5, 0, false, 9, [1#32768], 0, .exempt, false, .staging⟩

/-- A frame of tenant 5 with two sectors, tag 8. -/
def twoFrame : Frame := ⟨8, 5, 0, false, 9, [1#32768, 2#32768], 0, .exempt, false, .staging⟩

/-- A half with n real slots. -/
def filling (n : Nat) : Half := ⟨.filling, List.replicate n (.real 5 9 0 0#32768), none, false, []⟩

/-- Lane 0 bound to stream 0 of tenant 5, with unit 64 and the halves given. -/
def boundLane (state : LaneState) (a b : Half) : Lane := ⟨state, some (5, 0), some (64, 3), a, b, none, 0⟩

/-- Tenant 5 under p with lane 0, and with one frame at the staging step. -/
def staging (p : Policy) (f : Frame) (v : Lane) : State :=
  { (((withTenant { active p with bound := 1 }).setLane 0 v).setStream 5 0 ⟨.bound 0, none, 0, 0⟩).setUnit 64
      ⟨.opened, some (5, 0), 0, 0, 3, none, false⟩ with
    intake := [f], recency := [0] }

/-- Unit 64 SEALED for tenant 5 with 100 valid sectors, at epoch 0. -/
def sealed64 : UnitRec := ⟨.sealed, some (5, 0), 100, 4096, 256, some 0, false⟩

def sSealed : State := sFive.setUnit 64 sealed64

/-- A nomination of unit n of tenant 5. -/
def nominated (n : Nat) (w : Bool) : Nomination := ⟨⟨n, 5, 100, 250⟩, w⟩

/-- A program order in flight on die 0 for half A of lane 0, unit 64, stripe 3. -/
def ordered (mark : Bool) : State :=
  { ((staging Policy.reset oneFrame
      ⟨.active, some (5, 0), some (64, 4),
        ⟨.programming, List.replicate 16 (.real 5 9 0 0#32768), some (64, 3), mark, []⟩, Half.reset, none, 2⟩).setDie 0
      ⟨[], some ⟨0#8, 64, .program 0 .a 3 mark [], 20⟩, 1#8⟩) with
    intake := [], placement := [.reserved 0 .a], ordersSent := [0] }

/-- A seal order of unit 64 in flight on die 0. -/
def sealing : State :=
  { (sFive.setUnit 64 ⟨.parked, some (5, 0), 16, 16, 4, none, false⟩).setDie 0 ⟨[], some ⟨0#8, 64, .seal, 20⟩, 1#8⟩ with
    ordersSent := [0], parked := 1 }

/-- A draining tenant 5 whose deadline runs. -/
def draining : State :=
  { withTenant { active Policy.reset with state := .draining, drain := some ⟨.flush, .frames, .running 5000⟩ } with
    intake := [{ oneFrame with step := .lane }] }

/-- A policy record as a request carries it, with every value in its range. -/
def rawPolicy : RawPolicy :=
  ⟨1, List.replicate 16 0#8, 100, 2, 1, 255, 1, 0, 0, 0, 65535, 0⟩

def rawSettings : RawSettings := ⟨5, 0, 0, 600, 9, 0, 1, 0, 0, 3, 255⟩

def request (n : Nat) : Frame := { oneFrame with tag := BitVec.ofNat 16 n }

/-! ## The check of well-formedness refuses -/

theorem test_list_longer_than_its_count : (Instr.supplyUnits 0 1 [0, 1]).wellFormed = false := by decide
theorem test_list_shorter_than_its_count : (Instr.invalidate 0 64 []).wellFormed = false := by decide
theorem test_entries_under_a_bad_count : (Instr.declareUnits 0 65 [⟨0, 0, 0, 0, 0, 0⟩]).wellFormed = false := by decide
theorem test_release_without_entries : (Instr.releaseUnits 0 0 1 []).wellFormed = false := by decide
theorem test_write_without_its_sectors : (Instr.write 0 0 0 0 0 16 []).wellFormed = false := by decide
theorem test_sectors_under_a_bad_count : (Instr.write 0 0 0 0 0 17 [0]).wellFormed = false := by decide
theorem test_short_stream_map_admit :
    (Instr.admitTenant 0 5 { rawPolicy with streamMap := [] }).wellFormed = false := by decide
theorem test_long_stream_map_set :
    (Instr.setPolicy 0 5 0 { rawPolicy with streamMap := List.replicate 17 0 }).wellFormed = false := by decide
theorem test_well_formed_at_the_bounds :
    (Instr.supplyUnits 0 0 []).wellFormed = true ∧ (Instr.supplyUnits 0 65 []).wellFormed = true
      ∧ (Instr.supplyUnits 0 64 (List.replicate 64 0)).wellFormed = true
      ∧ (Instr.write 0 0 0 0 0 1 [0]).wellFormed = true ∧ (Instr.write 0 0 0 0 0 0 []).wellFormed = true := by decide

/-! ## The receiver -/

/-- The kind, tag, length and payload of a frame with its CRC. -/
def frameOf (kind : Byte) (tag payload : List Byte) : List Byte :=
  let body := [kind] ++ tag ++ [0, 0, BitVec.ofNat 8 payload.length] ++ payload
  body ++ crcBytes body

theorem test_read_start : takeFrame (frameOf 3 [0x12, 0x34] []) = .start 0x1234 := by decide +kernel
theorem test_read_grant : takeFrame (frameOf 20 [0, 7] [0x10, 0]) = .grantCredits 7 4096 := by decide +kernel
theorem test_read_invalidate :
    takeFrame (frameOf 7 [0, 1] [1, 0x7f, 0xff, 0x10, 0x00]) = .invalidate 1 1 [⟨32767, 4096⟩] := by decide +kernel
theorem test_read_query_stream :
    takeFrame (frameOf 21 [0, 1] [2, 1, 3, 255, 7]) = .query 1 (.stream 1023 7) 1 := by decide +kernel
theorem test_read_wrong_length : takeFrame (frameOf 3 [0, 1] [0]) = .frameDiscard .wrongLength := by decide +kernel
theorem test_read_damaged :
    takeFrame ((frameOf 3 [0, 1] []).set 1 1) = .frameDiscard .badCrc := by decide +kernel
theorem test_read_part_kind : takeFrame (frameOf 129 [0, 1] []) = .frameDiscard .partKind := by decide +kernel
theorem test_read_unassigned : takeFrame (frameOf 23 [0, 9] [1, 2]) = .unassignedFrame 9 := by decide +kernel
/-- The state after symbols have come in. -/
def received (s : State) (l : List Symbol) : State :=
  l.foldl (fun s symbol => match s.takeSymbol symbol with | .next t => t | _ => s) s

theorem test_symbols :
    let t := received State.reset ([.byte 1, .startDelimiter] ++ (frameOf 3 [0, 2] []).map .byte ++ [.resyncDelimiter])
    t.device = .running ∧ t.replies = [⟨2, .ok, .bare⟩] ∧ t.receiving = none ∧ t.resyncArmed = true := by decide +kernel

theorem test_new_delimiter :
    let t := received sRun [.startDelimiter, .byte 3, .startDelimiter]
    t.receiving = some [] ∧ t.counters.linkErrors = 1 := by decide +kernel

theorem test_reset_drops_the_frame :
    (received sRun [.startDelimiter, .byte 3]).receiving = some [3]
      ∧ (after (.resetN false) (received sRun [.startDelimiter, .byte 3])).receiving = none := by decide +kernel

/-- 96 replies wait. -/
def sNinetySix : State := { sRun with replies := List.replicate 96 ⟨1, .ok, .bare⟩ }

theorem test_hold_at_ninety_six :
    received sNinetySix [.startDelimiter] = sNinetySix
      ∧ (received { sNinetySix with receiving := some [] } [.byte 3]).receiving = some [3] := by decide +kernel

theorem test_pools_snapshot_bytes :
    (Snapshot.pools (after (.supplyUnits 1 1 [64]) State.reset).poolsSnapshot).bytes =
      [0, 1, 1, 0, 64] ++ (List.replicate 7 [0, 0, 0]).flatten ++ [0, 255] := by decide +kernel

/-! ## One step of each command -/

theorem test_write_binds :
    let t := after (.write 7 5 0 0 9 1 [1#32768]) (sFive.setPool 0 [64] |>.setUnit 64 ⟨.free, none, 0, 0, 0, none, false⟩)
    t.intake.map Frame.step = [.staging] ∧ (t.stream 5 0).binding = .bound 0 ∧ (t.lane 0).state = .active
      ∧ (t.unit 64).state = .opened ∧ (t.unit 64).owner = some (5, 0) ∧ (t.tenant 5).bound = 1
      ∧ (t.tenant 5).owned = 1 ∧ t.recency = [0] ∧ t.pool 0 = [] := by decide +kernel

theorem test_write_waits_for_a_unit :
    let t := after (.write 7 5 0 0 9 1 [1#32768]) sFive
    (t.lane 0).state = .unitWait ∧ t.unitWait = [0] ∧ t.intake.map Frame.step = [.staging] := by decide +kernel

theorem test_configure :
    (after (.configure 1 rawSettings) State.reset).settings =
      ⟨10, 1, 0, 512, 8, 0, true, false, false, .continuous, 255⟩ := by decide +kernel

theorem test_start :
    let t := after (.start 1) State.reset
    t.device = .running ∧ t.epochTimer = some 100 ∧ t.replies = [⟨1, .ok, .bare⟩] := by decide +kernel

theorem test_start_under_hold :
    let t := after (.start 1) { State.reset with holdLevel := true }
    t.device = .held ∧ (t.pendingOf 1024 .holdDone).isSome = true := by decide +kernel

theorem test_declare :
    let t := after (.declareUnits 1 2 [⟨64, 0, 0, 3, 5000, 9⟩, ⟨64, 1, 0, 0, 0, 0⟩]) State.reset
    t.unit 64 = ⟨.sealed, some (0, 3), 4096, 4096, 256, some (-9), false⟩ ∧ (t.tenant 0).owned = 1
      ∧ t.replies = [⟨1, .ok, .entries [.ok, .wrongState]⟩] := by decide +kernel

theorem test_supply_serves_the_wait :
    let t := after (.supplyUnits 1 1 [64]) (after (.write 7 5 0 0 9 1 [1#32768]) sFive)
    (t.lane 0).state = .active ∧ t.unitWait = [] ∧ t.pool 0 = [] := by decide +kernel

theorem test_supply :
    let t := after (.supplyUnits 1 2 [64, 63]) State.reset
    t.pool 0 = [64] ∧ t.pool 7 = [63] ∧ (t.unit 64).state = .free := by decide +kernel

theorem test_release_free :
    let t := after (.releaseUnits 1 0 1 [64]) (after (.supplyUnits 1 2 [64, 0]) State.reset)
    t.pool 0 = [0] ∧ (t.unit 64).state = .vacant := by decide +kernel

theorem test_release_forced :
    let t := after (.releaseUnits 1 1 1 [64]) (sFive.setUnit 64 ⟨.reclaiming, some (5, 0), 3, 9, 1, none, true⟩)
    (t.unit 64).state = .retired ∧ (t.unit 64).valid = 0 ∧ t.counters.forcedReleases = 1 := by decide +kernel

theorem test_invalidate :
    let t := after (.invalidate 1 2 [⟨64, 60⟩, ⟨64, 60⟩]) sSealed
    (t.unit 64).valid = 0 ∧ t.counters.underruns = 1 ∧ t.replies = [⟨1, .ok, .entries [.ok, .ok]⟩] := by decide +kernel

theorem test_reclaim :
    let t := after (.reclaimUnit 1 64) { sSealed with nominations := [nominated 64 false] }
    (t.unit 64).state = .reclaiming ∧ t.nominations = [nominated 64 true]
      ∧ t.replies = [⟨1, .ok, .reclaim 5 0 100 0⟩] := by decide +kernel

theorem test_admit :
    (after (.admitTenant 1 5 { rawPolicy with allowance := 7, laneQuota := 9, laneFloor := 7 }) sRun).tenant 5 =
      { Tenant.reset with
        state := .active, credit := 16, active := { Policy.reset with allowance := 16, laneQuota := 8, laneFloor := 2 } }
    := by decide +kernel

theorem test_set_policy_now :
    let t := after (.setPolicy 1 5 0 { rawPolicy with allowance := 40 }) (withTenant (active limited))
    (t.tenant 5).credit = 80 ∧ (t.tenant 5).active.allowance = 40 := by decide +kernel

theorem test_set_policy_epoch :
    let t := after (.setPolicy 1 5 1 { rawPolicy with laneFloor := 2 }) sFive
    (t.tenant 5).reservation = 2 ∧ (t.tenant 5).active = Policy.reset := by decide +kernel

theorem test_cancel :
    let t := after (.cancelPending 1 5) (withTenant { active Policy.reset with pendingPolicy := some limited })
    (t.tenant 5).pendingPolicy = none ∧ t.replies = [⟨1, .ok, .bare⟩] := by decide +kernel

theorem test_suspend : ((after (.suspendTenant 1 5) sFive).tenant 5).state = .suspended := by decide +kernel

theorem test_resume :
    ((after (.resumeTenant 1 5) (withTenant { active Policy.reset with state := .suspended })).tenant 5).state = .active
    := by decide +kernel

theorem test_resume_leaves_the_wait_for_a_half :
    let full : Half := { filling 16 with state := .full }
    let t := after (.resumeTenant 1 5)
      { staging refusing { oneFrame with step := .half } (boundLane .unitWait full full) with
        tenants := [(5, { active refusing with state := .suspended, bound := 1 })], unitWait := [0] }
    t.intake.map Frame.step = [.half] ∧ t.replies = [⟨1, .ok, .bare⟩] := by decide +kernel

theorem test_remove_abort :
    let t := after (.removeTenant 1 5 1) { sFive with intake := [{ oneFrame with step := .lane }] }
    t.replies = [⟨7, .aborted, .write 0 0⟩, ⟨1, .ok, .removal 1 0⟩] ∧ (t.tenant 5).state = .vacant
      ∧ (t.pendingOf 5 .drained).isSome = true := by decide +kernel

theorem test_remove_flush :
    let t := after (.removeTenant 1 5 0) { sFive with intake := [{ oneFrame with step := .lane }] }
    (t.tenant 5).drain = some ⟨.flush, .frames, .running 5000⟩ ∧ t.intake.length = 1 := by decide +kernel

theorem test_flush_pads :
    let t := after (.flushTenant 1 5) (staging Policy.reset oneFrame (boundLane .active (filling 3) Half.reset))
    (t.half 0 .a).state = .programming ∧ (t.half 0 .a).padCount = 13 ∧ (t.half 0 .a).refs = [0]
      ∧ t.flushes = [⟨0, 1, 5, 1, 1, false⟩] ∧ t.placement = [.reserved 0 .a] ∧ (t.die 0).busy.isSome = true
    := by decide +kernel

theorem test_flush_nothing : (after (.flushTenant 1 5) sFive).replies = [⟨1, .ok, .flush 0⟩] := by decide +kernel

theorem test_start_scan :
    (after (.startScan 1 1 5) sSealed).scan = some ⟨.tenant 5, 0⟩ := by decide +kernel

theorem test_take :
    let t := after (.takeNomination 1 0 0) { sSealed with nominations := [nominated 9 false, nominated 64 false] }
    t.nominations = [] ∧ t.replies = [⟨1, .ok, .nomination 64 5 100 (3996 * 256 / 356)⟩] := by decide +kernel

theorem test_force_epoch :
    let t := after (.forceEpoch 1 0) { withTenant (active limited) with settings := { Settings.reset with epochNotice := true } }
    t.epoch = 1#32 ∧ (t.tenant 5).credit = 200 ∧ t.pendingOf 1024 .epoch = some ⟨.epoch, 1, 1#32⟩ := by decide +kernel

theorem test_policy_hold : (after (.policyHold 1 1) State.reset).policyHold = true := by decide +kernel

theorem test_grant : (after (.grantCredits 1 4096) { State.reset with credit := 65000 }).credit = 65535 := by decide +kernel

theorem test_query_clears :
    let t := after (.query 1 .device 1) { State.reset with counters := ⟨1, 2, 3, 4, 5, 6, 7, 8, 9⟩ }
    t.counters = ⟨0, 0, 0, 0, 0, 0, 0, 0, 0⟩
      ∧ t.replies.map Reply.body =
        [.snapshot (.device { State.reset.deviceSnapshot with counters := ⟨1, 2, 3, 4, 5, 6, 7, 8, 9⟩ })] := by decide +kernel

theorem test_query_lane :
    let t := after (.query 1 (.lane 127) 0) State.reset
    t.replies.map Reply.status = [.ok] ∧ (after (.query 1 (.lane 128) 0) State.reset).replies = [⟨1, .badRequest, .bare⟩]
    := by decide +kernel

theorem test_resume_from_hold : (after (.resumeFromHold 1) sHeld).device = .running := by decide +kernel

theorem test_device_reset :
    let t := after (.deviceReset 1) sRun
    t.resetWait = some 1 ∧ t.rxBlocked = true ∧ t.device = .running := by decide +kernel

theorem test_reset_takes_effect :
    let t := after (.deviceResetTakesEffect true) (after .sendReply (after (.deviceReset 1) sRun))
    t = { State.reset with holdLevel := true } := by decide +kernel

theorem test_reset_n : after (.resetN false) sRun = State.reset := by decide +kernel

theorem test_link_resync :
    let t := after (.linkResync 1) { sRun with credit := 5, resyncArmed := true }
    t.credit = 0 ∧ t.resyncArmed = false ∧ t.replies = [⟨1, .ok, .bare⟩] := by decide +kernel

theorem test_resync_delimiter :
    let t := after (.start 1) (after .resyncDelimiter State.reset)
    t.device = .config ∧ t.counters.linkErrors = 1 := by decide +kernel

theorem test_unassigned : (after (.unassignedFrame 1) sRun).replies = [⟨1, .badRequest, .bare⟩] := by decide +kernel

theorem test_frame_discard :
    let t := after (.frameDiscard .badCrc) (after (.frameDiscard .tooLong) sRun)
    t.counters.linkErrors = 2 ∧ t.pendingOf 1024 .linkError = some ⟨.linkError, 2, 2#32⟩ := by decide +kernel

theorem test_send_reply :
    let t := after .sendReply { sRun with replies := [⟨1, .ok, .bare⟩, ⟨2, .ok, .bare⟩] }
    t.tx = some (.reply ⟨1, .ok, .bare⟩) ∧ t.replies = [⟨2, .ok, .bare⟩] := by decide +kernel

theorem test_send_report_first :
    let s := { sRun with
      credit := 2, placement := [.ready 5 0 []], attention := [5], notices := [(5, [⟨.drained, 1, 0#32⟩])] }
    after .sendNotice s = s ∧ (after .sendPlacementReport s).preference = .notice
      ∧ (after .sendPlacementReport s).credit = 1 ∧ (after .sendPlacementReport s).placement = [] := by decide +kernel

theorem test_send_notice :
    let t := after .sendNotice { sRun with
      credit := 2, placement := [.ready 5 0 []], preference := .notice, attention := [5]
      notices := [(5, [⟨.drained, 1, 0#32⟩])] }
    t.tx = some (.notice 5 [⟨.drained, 1, 0#32⟩]) ∧ t.attention = [] ∧ t.notices = [] ∧ t.preference = .placement
    := by decide +kernel

theorem test_offer_last_sector :
    let t := after (.sectorOffer 5) (staging Policy.reset oneFrame (boundLane .active (filling 15) Half.reset))
    t.replies = [⟨7, .accepted, .write 0 1⟩] ∧ t.intake = [] ∧ (t.half 0 .a).state = .programming
      ∧ (t.half 0 .b).state = .filling ∧ (t.half 0 .a).assigned = some (64, 3) ∧ (t.lane 0).current = some (64, 4)
      ∧ (t.stream 5 0).accepted = 1 := by decide +kernel

theorem test_offer_waits_for_a_half :
    let t := after (.sectorOffer 5) (staging Policy.reset oneFrame
      (boundLane .active { filling 16 with state := .full } { filling 16 with state := .full }))
    t.intake.map Frame.step = [.half] ∧ t.replies = [] := by decide +kernel

theorem test_program_done :
    let t := after (.programDone 0 0 64) (ordered false)
    (t.unit 64).valid = 16 ∧ (t.half 0 .a) = { Half.reset with state := .filling }
      ∧ t.placement = [.ready 5 0 ((List.range 16).map (fun i => ⟨9, 0, 1, 64, 3, i⟩))]
      ∧ (t.lane 0).failRun = 0 ∧ (t.die 0).busy = none ∧ (t.tenant 5).counters.placed = 16 := by decide +kernel

theorem test_program_done_seals :
    let t := after (.programDone 0 0 64) (ordered true)
    (t.unit 64).state = .sealed ∧ (t.unit 64).sealEpoch = some 0 := by decide +kernel

theorem test_report_corrupt :
    let t := after .mediaReportCorrupt sRun
    t.counters.staleReports = 1 ∧ t.pendingOf 1024 .mediaStale = some ⟨.mediaStale, 1, 1#32⟩ := by decide +kernel

theorem test_program_fail :
    let t := after (.programFail 0 0 64) (ordered false)
    (t.unit 64).state = .reclaiming ∧ (t.unit 64).failed = true ∧ (t.half 0 .a).state = .full
      ∧ (t.lane 0).failRun = 3 ∧ t.counters.programFails = 1 ∧ t.unitWait = [0] ∧ t.placement = [.reserved 0 .a]
      ∧ t.pendingOf 5 .unitFailed = some ⟨.unitFailed, 1, 64#32⟩ := by decide +kernel

theorem test_program_timeout :
    let t := after (.programTimeout 0) (ordered false)
    (t.unit 64).state = .reclaiming ∧ t.counters.programTimeouts = 1 ∧ t.counters.programFails = 0 := by decide +kernel

theorem test_seal_done :
    let t := after (.sealDone 0 0 64) sealing
    (t.unit 64).state = .sealed ∧ (t.unit 64).valid = 16 ∧ t.parked = 0 ∧ (t.die 0).busy = none := by decide +kernel

theorem test_seal_fail :
    let t := after (.sealFail 0 0 64) sealing
    (t.unit 64).state = .reclaiming ∧ t.counters.programFails = 1 ∧ (t.pendingOf 5 .unitFailed).isSome = true := by
  decide +kernel

theorem test_seal_timeout :
    (after (.sealTimeout 0) sealing).counters.programTimeouts = 1 ∧ after (.sealTimeout 1) sealing = sealing := by
  decide +kernel

theorem test_epoch_boundary :
    let t := after .epochBoundary (withTenant { active Policy.reset with pendingPolicy := some limited })
    t.epoch = 1#32 ∧ (t.tenant 5).active = limited ∧ (t.tenant 5).pendingPolicy = none ∧ (t.tenant 5).credit = 200 := by
  decide +kernel

theorem test_scan_visit :
    (after .scanVisit { sSealed with scan := some ⟨.all, 64⟩ }).working = [⟨64, 5, 100, 3996 * 256 / 356⟩] := by
  decide +kernel

theorem test_scan_completes :
    let t := after .scanVisit { sSealed with scan := some ⟨.all, 32767⟩, working := [⟨64, 5, 100, 1⟩] }
    t.scan = none ∧ t.nominations = [⟨⟨64, 5, 100, 1⟩, false⟩]
      ∧ t.pendingOf 1024 .nominationsReady = some ⟨.nominationsReady, 1, 1#32⟩ := by decide +kernel

theorem test_drain_deadline :
    let t := after (.drainDeadlineExpiry 5) draining
    t.replies = [⟨7, .aborted, .write 0 0⟩] ∧ t.intake = [] ∧ (t.tenant 5).state = .vacant := by decide +kernel

theorem test_hold_asserted :
    let t := after .holdAsserted (staging Policy.reset oneFrame (boundLane .active (filling 3) Half.reset))
    t.device = .holding ∧ t.replies = [⟨7, .holdAbort, .write 0 0⟩] ∧ (t.half 0 .a).state = .programming
      ∧ t.epochTimer = none := by decide +kernel

theorem test_hold_deasserted :
    (after .holdDeasserted { sHeld with settings := { Settings.reset with autoResume := true } }).device = .running := by
  decide +kernel

theorem test_step_takes_the_front :
    step { State.reset with pending := [.start 1, .sendReply] } =
      exec (.start 1) { State.reset with pending := [.sendReply] } := rfl

theorem test_step_idles : step State.reset = .next State.reset := rfl

/-! ## The hypotheses of each statement are met

One theorem for each statement with hypotheses, in the order of the statements: for each clause a state and operands, at the
bounds of the clause's range. -/

theorem witness_StepRunsFrontCommand :
    ({ State.reset with pending := [.sendReply] } : State).pending = .sendReply :: [] ∧ State.reset.pending = [] := by decide

theorem witness_SizesKept :
    ({ State.reset with receiving := some [] } : State).Bounded ({ State.reset with receiving := some [] } : State).room
      ∧ ∃ t, step { State.reset with receiving := some [] } = .next t :=
  ⟨⟨by decide, by decide, by decide, by decide, by decide, by decide, by decide⟩, _, rfl⟩

theorem witness_TablesKept : sSealed.Canonical ∧ ∃ t, step sSealed = .next t :=
  ⟨⟨by decide +kernel, by decide +kernel, by decide +kernel, by decide +kernel, by decide +kernel, by decide +kernel,
    by decide +kernel, by decide +kernel⟩, _, rfl⟩

theorem witness_AttentionKept :
    ({ State.reset with attention := [5], notices := [(5, [⟨.drained, 1, 0#32⟩])] } : State).Attentive
      ∧ ∃ t, step { State.reset with attention := [5], notices := [(5, [⟨.drained, 1, 0#32⟩])] } = .next t := by
  refine ⟨⟨by decide, fun src => ?_⟩, _, rfl⟩
  by_cases h : src = 5
  · subst h
    decide
  · simp [State.pendingSet, rowOf, h, Ne.symm h]

theorem policy_reset_inRange : Policy.reset.InRange :=
  ⟨by decide, ⟨by decide, by decide⟩, by decide, by decide, by decide, by decide, by decide⟩

theorem counters_reset_inRange : TenantCounters.reset.InRange :=
  ⟨by decide, by decide, by decide, by decide, by decide, by decide, by decide⟩

theorem tenant_reset_inRange : Tenant.reset.InRange :=
  ⟨policy_reset_inRange, fun p h => (by cases h), by decide, fun h => absurd rfl h, by decide, counters_reset_inRange⟩

theorem witness_RangesKept :
    ({ State.reset with tenants := [] } : State).InRange ∧ ∃ t, step { State.reset with tenants := [] } = .next t := by
  refine ⟨⟨⟨by decide, by decide, by decide, by decide, by decide, by decide, by decide⟩, fun t => ?_, ?_, fun t x => ?_,
    fun u => ⟨Nat.zero_le _⟩⟩, _, rfl⟩
  · exact tenant_reset_inRange
  · exact ⟨by decide, by decide, by decide, by decide, by decide, by decide, by decide, by decide, by decide⟩
  · exact ⟨Nat.zero_le _, Nat.zero_le _⟩

theorem witness_ResetsRestoreEveryBlock :
    sRun.takesFrames ∧ ({ sRun with resetWait := some 0 } : State).resetWait = some 0 ∧ sRun.resetWait ≠ some 0
      ∧ ({ sRun with resetWait := some 1 } : State).resetWait ≠ some 0 := by decide

theorem witness_FramesTurnedAway :
    ((Instr.start 1).isReceived = true ∧ ({ sRun with resetWait := some 0 } : State).rxBlocked = true
      ∧ sNinetySix.rxBlocked = true ∧ ({ sNinetySix with receiving := some [] } : State).rxBlocked = false)
    ∧ (nextSymbol sRun.receiving .startDelimiter = .reading (some []) ∧ nextSymbol sRun.receiving (.byte 3) = .reading none
      ∧ nextSymbol (some [3]) .startDelimiter = .ends (.frameDiscard .newDelimiter)
      ∧ nextSymbol sRun.receiving .resyncDelimiter = .ends .resyncDelimiter)
    ∧ ((Instr.supplyUnits 1 64 []).isReceived = true ∧ sRun.rxBlocked = false ∧ sRun.resyncArmed = false
      ∧ (Instr.supplyUnits 1 64 []).wellFormed = false)
    ∧ ((Instr.start 1).isReceived = true ∧ (after .resyncDelimiter sRun).rxBlocked = false
      ∧ (after .resyncDelimiter sRun).resyncArmed = true ∧ (∀ tag, Instr.start 1 ≠ .linkResync tag)
      ∧ Instr.start 1 ≠ .resyncDelimiter ∧ Instr.start 1 ≠ .frameDiscard .newDelimiter) :=
  ⟨by decide, by decide, by decide, by decide, by decide, by decide, fun _ h => (by cases h), by decide, by decide⟩

/-- Every control slot is held. -/
def sFull : State := { sRun with flushes := (List.range 16).map (fun i => ⟨i, 1, i, 1, 1, false⟩) }

theorem witness_ControlSlotsHeld :
    (Instr.policyHold 3 0).controlTag = some 3 ∧ (Instr.policyHold 3 0).wellFormed = true ∧ sFull.takesFrames
      ∧ 16 ≤ sFull.flushes.length := by decide

theorem witness_FramesWithoutASlot :
    sRun.rxBlocked = false ∧ sFull.takesFrames ∧ sFull.rxBlocked = false ∧ (after .resyncDelimiter sRun).rxBlocked = false := by
  decide

theorem witness_NoticePosting :
    sRun.pendingOf 1024 .epoch = none
      ∧ (sRun.post 1024 .epoch 9#32).pendingOf 1024 .epoch = some ⟨.epoch, 1, 9#32⟩
      ∧ ({ sRun with notices := [(1024, [⟨.epoch, 255, 0#32⟩])] } : State).pendingOf 1024 .epoch = some ⟨.epoch, 255, 0#32⟩
      ∧ (((5 : Nat) ≠ 1024 ∨ NoticeKind.watch ≠ .epoch) ∧ ((1024 : Nat) ≠ 1024 ∨ NoticeKind.linkError ≠ .epoch)) := by
  decide

theorem witness_OldestReplyIsSent :
    (({ sRun with replies := [⟨1, .ok, .bare⟩] } : State).replies = ⟨1, .ok, .bare⟩ :: [] ∧ sRun.resetWait ≠ some 0)
      ∧ sRun.replies = [] ∧ ({ sRun with resetWait := some 0 } : State).resetWait = some 0 := by decide

/-- A report waits, with one credit. -/
def sReport : State := { sRun with placement := [.ready 5 0 []], credit := 1 }

/-- A half without a reservation heads die 9, in the group the pointer names. -/
def wanting : State := { sReport.setDie 9 ⟨[.half 3 .b], none, 0#8⟩ with groupPtr := 1 }

theorem witness_PlacementReportIsSent :
    (sReport.placement = .ready 5 0 [] :: [] ∧ sReport.replies = [] ∧ 0 < sReport.credit ∧ sReport.resetWait = none
      ∧ sReport.attention = [])
    ∧ ({ sReport with attention := [5] } : State).preference = .placement
    ∧ ((List.range 8).flatMap (fun i =>
        (List.range 8).map (fun j => 8 * ((wanting.groupPtr + i) % 8)
          + (rowOf 0 wanting.groupPos ((wanting.groupPtr + i) % 8) + j) % 8))).find? wanting.wantsRoom = some 9
    ∧ (List.range 64).find? sReport.wantsRoom = none := by decide +kernel

theorem witness_NoticeSent :
    (({ sRun with attention := [5], credit := 1 } : State).attention = 5 :: []
      ∧ ({ sRun with attention := [5], credit := 1 } : State).placementWaits = false
      ∧ ({ sReport with attention := [5], preference := .notice } : State).preference = .notice
      ∧ sReport.replies = [] ∧ 0 < sReport.credit ∧ sReport.resetWait = none)
    ∧ ((5 : Nat) ≠ 1024 ∧ ({ sReport with replies := [⟨1, .ok, .bare⟩] } : State).replies ≠ [] ∧ sRun.credit = 0
      ∧ ({ sReport with resetWait := some 0 } : State).resetWait ≠ none) := by decide

theorem witness_ConfigureReplacesSettings :
    sRun.takesControl ∧ sRun.device ≠ .config ∧ State.reset.takesControl ∧ State.reset.device = .config
      ∧ 3 < ({ rawSettings with trigger := 4 } : RawSettings).trigger.toNat ∧ rawSettings.trigger.toNat ≤ 3 := by decide

theorem witness_StartMakesThePartRun :
    sHeld.takesControl ∧ sHeld.device ≠ .config ∧ State.reset.takesControl ∧ State.reset.device = .config
      ∧ State.reset.holdLevel = false ∧ ({ State.reset with holdLevel := true } : State).holdLevel = true
      ∧ (let v := { State.reset with settings := { Settings.reset with trigger := .continuous } }
        v.takesControl ∧ v.device = .config ∧ v.holdLevel = false ∧ v.settings.trigger = .continuous ∧ v.scan = none) := by
  decide

theorem witness_CreditAndPolicyHold :
    sHolding.takesControl ∧ (1 ≤ (1#16).toNat ∧ (1#16).toNat ≤ 4096) ∧ (1 ≤ (4096#16).toNat ∧ (4096#16).toNat ≤ 4096)
      ∧ (0#16).toNat = 0 ∧ 4096 < (4097#16).toNat ∧ (0#8).toNat = 0 ∧ (1#8).toNat = 1 ∧ 1 < (2#8).toNat := by decide

theorem witness_QueryAnswersWithASnapshot :
    sHolding.takesControl ∧ 1023 < (1024#16).toNat ∧ 7 < (8#8).toNat ∧ 127 < (128#8).toNat ∧ 32767 < (32768#16).toNat
      ∧ sHolding.noteRx.snapshotOf .pools = some (.pools sHolding.noteRx.poolsSnapshot) ∧ (0#8) = 0#8 ∧ (255#8) ≠ 0#8
      ∧ (1023#16).toNat ≤ 1023 ∧ (7#8).toNat ≤ 7 ∧ (127#8).toNat ≤ 127 ∧ (32767#16).toNat ≤ 32767 := by decide +kernel

theorem witness_TenantRequestChecks :
    rawPolicy.fits = true ∧ (sHolding.takesControl ∧ sHolding.device = .holding)
      ∧ (sHeld.takesControl ∧ sHeld.device ≠ .holding ∧ 1023 < (1024#16).toNat)
      ∧ (1 < (2#8).toNat ∧ (0#16).toNat = 0) := by decide

theorem witness_PolicyRecordIsCheckedAndClamped :
    policyOf { rawPolicy with laneQuota := 0 } = none
      ∧ policyOf { rawPolicy with watchDepth := 255, watchLow := 65535, noUnit := 2, flushMode := 1, watchSource := 3 } =
        some { Policy.reset with
          allowance := 100, watchDepth := 15, watchLow := 65535, noUnit := .refuse, flushMode := .holdup
          watchSource := .evictions } := by decide

/-- Tenants 1 to n with a floor of 2 each. -/
def floors (n : Nat) : State :=
  { sRun with tenants := (List.range n).map (fun i => (i + 1, active { Policy.reset with laneFloor := 2 })) }

theorem witness_AdmitMakesAVacantTenantActive :
    (sRun.takesControl ∧ rawPolicy.fits = true ∧ sRun.device ≠ .holding ∧ (1023#16).toNat ≤ 1023)
      ∧ ((withTenant { active Policy.reset with state := .removed }).tenant (5#16).toNat).state = .removed
      ∧ ((sFive.tenant (5#16).toNat).state ≠ .removed ∧ (sFive.tenant (5#16).toNat).state ≠ .vacant)
      ∧ ((sRun.tenant (1023#16).toNat).state = .vacant ∧ policyOf { rawPolicy with poolMask := 0 } = none)
      ∧ policyOf rawPolicy = some limited
      ∧ ((floors 48).takesControl ∧ ((floors 48).tenant (1023#16).toNat).state = .vacant
        ∧ 96 < (floors 48).floorSum + limited.laneFloor)
      ∧ ((floors 47).floorSum + limited.laneFloor ≤ 96 ∧ ((floors 47).tenant (1023#16).toNat).state = .vacant) := by
  decide +kernel

/-- floors, with tenant 5 holding a floor of 1 and a pending floor of 2. -/
def pendingFloors (n : Nat) : State :=
  (floors n).setTenant 5 { active limited with pendingPolicy := some { limited with laneFloor := 2 } }

theorem witness_SetPolicyNow :
    (pendingFloors 49).takesControl ∧ rawPolicy.fits = true ∧ (pendingFloors 49).device ≠ .holding ∧ (5#16).toNat ≤ 1023
      ∧ ((pendingFloors 49).tenant 5).isServed = true ∧ policyOf rawPolicy = some limited
      ∧ 96 < (pendingFloors 49).floorSum - ((pendingFloors 49).tenant 5).reservation + max limited.laneFloor 2
      ∧ ((pendingFloors 48).tenant 5).isServed = true
      ∧ (pendingFloors 48).floorSum - ((pendingFloors 48).tenant 5).reservation + max limited.laneFloor 2 ≤ 96
      ∧ (pendingFloors 48).queueOf 5 = [] := by
  decide +kernel

theorem witness_SetPolicyAtTheNextEpoch :
    (sRun.takesControl ∧ (sRun.tenant (5#16).toNat).isServed = false)
      ∧ ((sFive.tenant (5#16).toNat).isServed = true ∧ 1 < (2#8).toNat ∧ policyOf { rawPolicy with activeStreams := 8 } = none)
      ∧ ((pendingFloors 49).takesControl ∧ ((pendingFloors 49).tenant (5#16).toNat).isServed = true
        ∧ policyOf rawPolicy = some limited ∧ (1#8).toNat = 1
        ∧ 96 < (pendingFloors 49).floorSum - ((pendingFloors 49).tenant 5).reservation + max 1 limited.laneFloor)
      ∧ (policyOf { rawPolicy with laneFloor := 2 } = some { limited with laneFloor := 2 }
        ∧ ((pendingFloors 48).tenant 5).active.laneFloor = 1
        ∧ (pendingFloors 48).floorSum - ((pendingFloors 48).tenant 5).reservation + max 1 2 ≤ 96) := by decide +kernel

theorem witness_CancelPendingWithdrawsTheRecord :
    (sRun.takesControl ∧ sRun.device ≠ .holding ∧ (5#16).toNat ≤ 1023 ∧ (sRun.tenant (5#16).toNat).state = .vacant)
      ∧ ((sFive.tenant (5#16).toNat).state = .active ∧ (sFive.tenant (5#16).toNat).pendingPolicy = none)
      ∧ (((pendingFloors 9).tenant (5#16).toNat).state = .active
        ∧ ((pendingFloors 9).tenant (5#16).toNat).pendingPolicy ≠ none) := by decide +kernel

theorem witness_SuspendAndResume :
    sFive.takesControl ∧ sFive.device ≠ .holding ∧ (5#16).toNat ≤ 1023 ∧ (sRun.tenant (5#16).toNat).state ≠ .active
      ∧ (sFive.tenant (5#16).toNat).state = .active ∧ (sFive.tenant (5#16).toNat).state ≠ .suspended
      ∧ ((withTenant { active Policy.reset with state := .suspended }).tenant (5#16).toNat).state = .suspended := by
  decide +kernel

theorem witness_RemoveStartsTheDrain :
    sFive.takesControl ∧ sFive.device ≠ .holding ∧ (5#16).toNat ≤ 1023 ∧ (5#16).toNat ≠ 0 ∧ (0#8).toNat ≤ 1
      ∧ (1#8).toNat ≤ 1 ∧ (sRun.tenant (5#16).toNat).isServed = false ∧ (sFive.tenant (5#16).toNat).isServed = true := by
  decide +kernel

/-- n flush records of tenant 5. -/
def flushing (n : Nat) : State := { sFive with flushes := (List.range n).map (fun i => ⟨i, 1, 5, 1, 1, false⟩) }

/-- The halves a flush of tenant 5 waits for. -/
def flushHalves (s : State) : List (Nat × HalfId) :=
  (s.lanesOf 5).flatMap (fun l => ([.a, .b] : List HalfId).filterMap (fun h =>
    if (s.half l h).state = .full ∨ (s.half l h).state = .programming
        ∨ ((s.lane l).filling = some h ∧ 0 < (s.half l h).realCount) then some (l, h)
    else none))

/-- Half A of lane 0 holds three sectors. -/
def sPart : State := staging Policy.reset oneFrame (boundLane .active (filling 3) Half.reset)

/-- Half A of lane 0 waits for nothing and is FILLING without a sector. -/
def sBare : State := staging Policy.reset oneFrame (boundLane .active (filling 0) Half.reset)

theorem sPart_canonical : sPart.Canonical :=
  ⟨by decide +kernel, by decide +kernel, by decide +kernel, by decide +kernel, by decide +kernel, by decide +kernel,
    by decide +kernel, by decide +kernel⟩

theorem sBare_canonical : sBare.Canonical :=
  ⟨by decide +kernel, by decide +kernel, by decide +kernel, by decide +kernel, by decide +kernel, by decide +kernel,
    by decide +kernel, by decide +kernel⟩

theorem witness_FlushWaitsForItsHalves :
    (sFive.takesControl ∧ 1023 < (1024#16).toNat ∧ (5#16).toNat ≤ 1023)
      ∧ (sRun.tenant (5#16).toNat).state = .vacant
      ∧ (let v := { withTenant (active { Policy.reset with flushMode := .holdup }) with
            settings := { Settings.reset with holdupArmed := true } }
        v.takesControl ∧ (v.tenant (5#16).toNat).state ≠ .vacant ∧ (v.tenant (5#16).toNat).active.flushMode = .holdup
          ∧ v.settings.holdupArmed = true)
      ∧ ((flushing 4).takesControl ∧ ((flushing 4).tenant (5#16).toNat).state ≠ .vacant
        ∧ ((flushing 4).tenant (5#16).toNat).active.flushMode = .pad ∧ 4 ≤ ((flushing 4).flushesOf (5#16).toNat).length)
      ∧ ((flushing 3).settings.holdupArmed = false ∧ ((flushing 3).flushesOf (5#16).toNat).length < 4)
      ∧ (sPart.takesControl ∧ (sPart.tenant (5#16).toNat).state ≠ .vacant ∧ sPart.settings.holdupArmed = false
        ∧ (sPart.flushesOf (5#16).toNat).length < 4 ∧ flushHalves sPart = [(0, .a)])
      ∧ (sBare.takesControl ∧ (sBare.tenant (5#16).toNat).state ≠ .vacant ∧ sBare.settings.holdupArmed = false
        ∧ (sBare.flushesOf (5#16).toNat).length < 4 ∧ flushHalves sBare = [])
      ∧ ((flushing 1).flushes.find? (fun f => f.slot = 0) = some ⟨0, 1, 5, 1, 1, false⟩
        ∧ (flushing 1).flushes.find? (fun f => f.slot = 1) = none
        ∧ ({ sFive with flushes := [⟨0, 1, 5, 2, 2, false⟩] } : State).flushes.find? (fun f => f.slot = 0) =
          some ⟨0, 1, 5, 2, 2, false⟩ ∧ 1 < 2) := by decide +kernel

theorem witness_DrainDeadlineEmptiesTheQueue :
    sFive.deadlineRuns (5#10).toNat = false ∧ draining.deadlineRuns (5#10).toNat = true := by decide +kernel

theorem witness_ListRequests :
    (sRun.takesControl ∧ listFits 0 0 = true ∧ listFits 65 0 = true ∧ (0#8).toNat = 0 ∧ 64 < (65#8).toNat)
      ∧ (listFits 1 1 = true ∧ 1 ≤ (1#8).toNat ∧ (1#8).toNat ≤ 64 ∧ listFits 64 64 = true ∧ 1 ≤ (64#8).toNat
        ∧ (64#8).toNat ≤ 64)
      ∧ (sRun.device ≠ .config ∧ State.reset.takesControl ∧ State.reset.device = .config ∧ sHolding.takesControl
        ∧ sHolding.device = .holding ∧ sRun.device ≠ .holding) := by decide

theorem witness_DeclareUnitsEntry :
    (32767 < (32768#16).toNat ∧ 2 < (3#8).toNat ∧ (0#8).toNat = 0 ∧ 1023 < (1024#16).toNat ∧ 7 < (8#8).toNat)
      ∧ ((32767#16).toNat ≤ 32767 ∧ (2#8).toNat ≤ 2 ∧ (1023#16).toNat ≤ 1023 ∧ (7#8).toNat ≤ 7)
      ∧ (sSealed.unit (64#16).toNat).state ≠ .unknown ∧ (State.reset.unit (32767#16).toNat).state = .unknown
      ∧ (State.reset.tenant (5#16).toNat).isServed = false ∧ (State.reset.tenant (0#16).toNat).isServed = true
      ∧ (1#8).toNat = 1 := by decide +kernel

/-- Unit 64 in a given state, with the counts and the mark given. -/
def unitIn (state : UnitState) (valid : Nat) (failed : Bool) : State :=
  sFive.setUnit 64 ⟨state, some (5, 0), valid, 4096, 256, none, failed⟩

theorem witness_SupplyAndInvalidateEntries :
    (32767 < (32768#16).toNat ∧ (32767#16).toNat ≤ 32767 ∧ (State.reset.unit (32767#16).toNat).state = .unknown
      ∧ ((unitIn .vacant 0 false).unit (64#16).toNat).state = .vacant
      ∧ (sSealed.unit (64#16).toNat).state ≠ .unknown ∧ (sSealed.unit (64#16).toNat).state ≠ .vacant)
      ∧ (32767 < (32768#16).toNat ∧ (0#16).toNat = 0 ∧ 4096 < (4097#16).toNat)
      ∧ ((64#16).toNat ≤ 32767 ∧ 1 ≤ (1#16).toNat ∧ (4096#16).toNat ≤ 4096)
      ∧ ((sSealed.unit (64#16).toNat).state = .sealed ∧ (sSealed.unit (64#16).toNat).valid < (4096#16).toNat)
      ∧ ((sRun.unit (64#16).toNat).state = .unknown ∧ ((unitIn .retired 0 true).unit (64#16).toNat).state = .retired) := by
  decide +kernel

theorem witness_ReleaseUnitsEntry :
    (32767 < (32768#16).toNat ∧ (64#16).toNat ≤ 32767)
      ∧ ((sSealed.unit (64#16).toNat).state ≠ .free ∧ (sSealed.unit (64#16).toNat).state ≠ .reclaiming)
      ∧ ((unitIn .free 0 false).unit (64#16).toNat).state = .free
      ∧ (((unitIn .reclaiming 1 true).unit (64#16).toNat).state = .reclaiming
        ∧ 0 < ((unitIn .reclaiming 1 true).unit (64#16).toNat).valid)
      ∧ (((unitIn .reclaiming 0 false).unit (64#16).toNat).valid = 0
        ∧ ((unitIn .reclaiming 0 false).unit (64#16).toNat).owner = some (5, 0)) := by decide +kernel

theorem witness_ReclaimUnit :
    (sHolding.takesControl ∧ sHolding.device = .holding)
      ∧ (sSealed.takesControl ∧ sSealed.device ≠ .holding ∧ 32767 < (32768#16).toNat)
      ∧ ((32767#16).toNat ≤ 32767 ∧ (sSealed.unit (32767#16).toNat).state ≠ .sealed)
      ∧ ((sSealed.unit (64#16).toNat).state = .sealed ∧ (sSealed.unit (64#16).toNat).owner = some (5, 0))
      ∧ ({ sSealed with scan := some ⟨.all, 65⟩ } : State).scan = some ⟨.all, 65⟩ ∧ (64#16).toNat < 65
      ∧ sSealed.scan = none ∧ ({ sSealed with scan := some ⟨.all, 64⟩ } : State).scan = some ⟨.all, 64⟩
      ∧ 64 ≤ (64#16).toNat := by
  decide +kernel

theorem witness_ScoreFormula : (4096 ≤ 4096 ∧ 255 ≤ 255) ∧ scoreOf 0 255 = 1048576 ∧ scoreOf 4096 255 = 0 := by
  decide +kernel

theorem witness_StartScan :
    (sHeld.takesControl ∧ sHeld.device = .held ∧ sHolding.device = .holding)
      ∧ (State.reset.takesControl ∧ State.reset.device = .config ∧ sRun.device = .running)
      ∧ (1 < (2#8).toNat ∧ (1#8).toNat = 1 ∧ 1023 < (1024#16).toNat ∧ (0#8).toNat = 0 ∧ (1023#16).toNat ≤ 1023)
      ∧ (({ sRun with scan := some ⟨.all, 0⟩ } : State).scan ≠ none ∧ sRun.scan = none) := by decide

theorem witness_NominationWalk :
    walkNominations sSealed (.tenant 6) [nominated 9 false, nominated 64 false] = ([nominated 64 false], none)
      ∧ walkNominations sSealed .all [nominated 9 false, nominated 64 true, nominated 64 false, nominated 3 true] =
        ([nominated 3 true], some 64) := by decide +kernel

theorem witness_TakeNomination :
    (sHolding.takesControl ∧ sHolding.device = .holding)
      ∧ (sSealed.takesControl ∧ sSealed.device ≠ .holding ∧ 1 < (2#8).toNat ∧ (1#8).toNat = 1 ∧ 1023 < (1024#16).toNat)
      ∧ ((0#8).toNat = 0 ∧ walkNominations sSealed .all sSealed.nominations = ([], none))
      ∧ ((1#8).toNat = 1 ∧ (5#16).toNat ≤ 1023
        ∧ walkNominations { sSealed with nominations := [nominated 64 false] } (.tenant (5#16).toNat)
          [nominated 64 false] = ([], some 64)) := by decide +kernel

theorem witness_ScanVisit :
    ([⟨1, 5, 100, 250⟩, ⟨2, 5, 100, 250⟩, ⟨3, 5, 200, 9⟩] : List WorkEntry).Pairwise (fun a b => b.score ≤ a.score)
      ∧ sRun.scan = none ∧ ({ sSealed with scan := some ⟨.all, 32766⟩ } : State).scan = some ⟨.all, 32766⟩ ∧ 32766 < 32767
      ∧ ({ sSealed with scan := some ⟨.tenant 5, 32767⟩ } : State).scan = some ⟨.tenant 5, 32767⟩ ∧ 32767 ≤ 32767 := by
  decide +kernel

theorem witness_EpochBoundary :
    (sHeld.device ≠ .running ∧ sHeld.takesControl)
      ∧ (sRun.device = .running ∧ sRun.epochTimer ≠ none ∧ sRun.takesControl)
      ∧ ((pendingFloors 3).policyHold = false ∧ ((pendingFloors 3).tenant 5).isServed = true
        ∧ ((pendingFloors 3).tenant 5).pendingPolicy = some { limited with laneFloor := 2 })
      ∧ (({ sRun with policyHold := true } : State).policyHold = true ∧ (sFive.tenant 5).pendingPolicy = none)
      ∧ ((sFive.queueOf 5 = [] ∧ sFive.tenants.all (fun row => row.2.pendingPolicy.isNone) = true)
        ∧ (((withTenant { active limited with active := { limited with watchSource := .creditLeft } }).tenant 5).isServed = true
          ∧ limited.allowance ≠ 0))
      ∧ (({ sRun with settings := { Settings.reset with epochNotice := true } } : State).settings.epochNotice = true
        ∧ sRun.scanCount = 0 ∧ (1#8 : BitVec 8) ≠ 0#8) := by
  decide +kernel

theorem sFive_canonical : sFive.Canonical :=
  ⟨by decide +kernel, by decide +kernel, by decide +kernel, by decide +kernel, by decide +kernel, by decide +kernel,
    by decide +kernel, by decide +kernel⟩

theorem witness_WorkOfABoundary :
    (sealed64.state = .sealed ∧ sealed64.sealEpoch ≠ none ∧ ageOf 254#32 sealed64 = 254 ∧ ageOf 255#32 sealed64 = 255)
      ∧ ((active limited).state ≠ .vacant ∧ (active limited).active.allowance ≠ 0)
      ∧ (Tenant.reset.state = .vacant ∧ (active Policy.reset).active.allowance = 0)
      ∧ (0 < ({ sRun with scanCount := 1 } : State).scanCount ∧ sRun.scanCount = 0
        ∧ sRun.settings.trigger ≠ .epoch
        ∧ ({ sRun with settings := { Settings.reset with trigger := .epoch } } : State).settings.trigger = .epoch
        ∧ sRun.scan = none ∧ sRun.device = .running
        ∧ ({ sRun with scan := some ⟨.all, 0⟩ } : State).scan ≠ none) := by decide +kernel

/-- A tenant under a watch of depth 2 from 10 to 20. -/
def watched (w : WatchRecord) : State :=
  withTenant
    { active { Policy.reset with watchSource := .evictions, watchLow := 10, watchHigh := 20, watchDepth := 2 } with
      watch := w }

theorem witness_WatchSample :
    ((sRun.tenant 5).isServed = false ∧ (sFive.tenant 5).active.watchSource ≠ .evictions
      ∧ (sFive.tenant 5).active.watchDepth = 0)
      ∧ (let p := ((watched ⟨1, .over⟩).tenant 5).active
        ((watched ⟨1, .over⟩).tenant 5).isServed = true ∧ p.watchSource = .evictions ∧ 0 < p.watchDepth
          ∧ p.watchHigh < 21 ∧ ¬p.watchHigh < 9 ∧ 9 < p.watchLow ∧ ¬p.watchHigh < 20 ∧ ¬20 < p.watchLow
          ∧ ¬10 < p.watchLow ∧ 1 + 1 = p.watchDepth ∧ 1 ≠ p.watchDepth) := by decide +kernel

/-- Half A of lane 0 is FULL at the head of die 0. -/
def queued : State :=
  let v : Lane := boundLane .active { filling 16 with state := .full, assigned := some (64, 3) } Half.reset
  (staging Policy.reset oneFrame { v with current := some (64, 4) }).setDie 0 ⟨[.half 0 .a], none, 255#8⟩

theorem witness_OrdersAreDispatched :
    queued.eligible 0 = true ∧ (queued.die 0).queue = .half 0 .a :: [] ∧ (queued.half 0 .a).assigned = some (64, 3)
      ∧ (1 : Nat) ≠ 0 ∧ (queued.die 0).queue ≠ []
      ∧ ((sRun.setDie 0 ⟨[.seal 64], none, 0#8⟩).die 0).queue = .seal 64 :: []
      ∧ ((sRun.die 0).queue = [] ∧ (sRun.setDie 0 { sRun.die 0 with queue := [.seal 64] }).eligible 0 = true)
      ∧ (((ordered false).die 0).queue = []
        ∧ ((ordered false).setDie 0 { (ordered false).die 0 with queue := [.seal 64] }).eligible 0 = false)
      ∧ ((List.range 8).map (fun i => 8 * 0 + (rowOf 0 queued.groupPos 0 + i) % 8)).find? queued.eligible = some 0
      ∧ ((List.range 8).map (fun i => 8 * 7 + (rowOf 0 queued.groupPos 7 + i) % 8)).find? queued.eligible = none
      ∧ 63 / 8 = 7 := by decide +kernel

theorem witness_StaleReports :
    (∀ o, ((ordered false).die (63#6).toNat).busy = some o → o.seq ≠ 0#8 ∨ o.unit ≠ (64#15).toNat ∨ o.kind = .seal)
      ∧ (∀ o, ((ordered false).die (0#6).toNat).busy = some o → o.seq ≠ 1#8 ∨ o.unit ≠ (64#15).toNat ∨ o.kind = .seal)
      ∧ (∀ o, ((ordered false).die (0#6).toNat).busy = some o → o.seq ≠ 0#8 ∨ o.unit ≠ (128#15).toNat ∨ o.kind = .seal)
      ∧ (∀ o, (sealing.die (0#6).toNat).busy = some o → o.seq ≠ 0#8 ∨ o.unit ≠ (64#15).toNat ∨ o.kind = .seal)
      ∧ (∀ o, ((ordered false).die (0#6).toNat).busy = some o → o.seq ≠ 0#8 ∨ o.unit ≠ (64#15).toNat ∨ o.kind ≠ .seal)
      ∧ (∀ o, (sealing.die (0#6).toNat).busy = some o → o.seq ≠ 1#8 ∨ o.unit ≠ (64#15).toNat ∨ o.kind ≠ .seal) := by
  have hp : ((ordered false).die (0#6).toNat).busy = some ⟨0#8, 64, .program 0 .a 3 false [], 20⟩ := by decide +kernel
  have hs : (sealing.die (0#6).toNat).busy = some ⟨0#8, 64, .seal, 20⟩ := by decide +kernel
  refine ⟨fun o h => ?_, fun o h => ?_, fun o h => ?_, fun o h => ?_, fun o h => ?_, fun o h => ?_⟩
  · cases h
  · cases hp.symm.trans h
    decide
  · cases hp.symm.trans h
    decide
  · cases hs.symm.trans h
    decide
  · cases hp.symm.trans h
    decide
  · cases hs.symm.trans h
    decide

theorem witness_ProgramDone :
    ((ordered true).die (0#6).toNat).busy = some ⟨0#8, (64#15).toNat, .program 0 .a 3 true [], 20⟩
      ∧ ((ordered false).die (0#6).toNat).busy = some ⟨0#8, (64#15).toNat, .program 0 .a 3 false [], 20⟩
      ∧ ((ordered true).lane 0).stream = some (5, 0)
      ∧ ((ordered true).half 0 .a).assigned = some ((64#15).toNat, 3)
      ∧ ((ordered true).unit (64#15).toNat).state = .opened
      ∧ (let v := { (ordered true).modHalf 0 .a (fun v => { v with refs := [0, 1] }) with
            flushes := [⟨0, 1, 5, 1, 1, false⟩, ⟨1, 2, 5, 2, 2, false⟩, ⟨2, 3, 5, 1, 1, false⟩] }
        (v.half 0 .a).refs.Nodup ∧ v.flushes.find? (fun g => g.slot = 0) = some ⟨0, 1, 5, 1, 1, false⟩
          ∧ 0 ∈ (v.half 0 .a).refs ∧ v.flushes.find? (fun g => g.slot = 1) = some ⟨1, 2, 5, 2, 2, false⟩
          ∧ 1 ∈ (v.half 0 .a).refs ∧ v.flushes.find? (fun g => g.slot = 2) = some ⟨2, 3, 5, 1, 1, false⟩
          ∧ 2 ∉ (v.half 0 .a).refs) := by decide +kernel

theorem test_flush_answered_at_the_last_half :
    let v := { (ordered true).modHalf 0 .a (fun v => { v with refs := [0, 1] }) with
      flushes := [⟨0, 1, 5, 1, 1, false⟩, ⟨1, 2, 5, 2, 2, false⟩] }
    let t := after (.programDone 0 0 64) v
    t.flushes = [⟨1, 2, 5, 1, 2, false⟩] ∧ t.replies = [⟨1, .ok, .flush 1⟩] := by decide +kernel

theorem witness_ExtentsCoverTheRealSlots :
    (∀ v ∈ [Slot.real 5 9 0 0, .real 5 9 1 0, .real 5 8 0 0], v.isReal = true)
      ∧ extentsOf 64 3 ([.real 5 9 0 0, .real 5 9 1 0, .real 5 8 0 0] ++ List.replicate 13 .pad) =
        [⟨9, 0, 2, 64, 3, 0⟩, ⟨8, 0, 1, 64, 3, 2⟩] := by decide +kernel

theorem witness_ProgramLost :
    ((sealing.die (0#6).toNat).busy = some ⟨0#8, 64, .seal, 20⟩ ∧ (sRun.die (63#6).toNat).busy = none)
      ∧ ((ordered false).die (0#6).toNat).busy = some ⟨0#8, (64#15).toNat, .program 0 .a 3 false [], 20⟩
      ∧ ((ordered false).lane 0).stream = some (5, 0) ∧ (ordered false).device ≠ .holding 
      ∧ ((ordered false).unit (64#15).toNat).state = .opened := by decide +kernel

theorem witness_SealDone : (sealing.die (0#6).toNat).busy = some ⟨0#8, (64#15).toNat, .seal, 20⟩
    ∧ (sealing.unit (64#15).toNat).state = .parked := by decide +kernel

theorem witness_SealLost :
    ((sRun.die (0#6).toNat).busy = none)
      ∧ ((sealing.die (0#6).toNat).busy = some ⟨0#8, (64#15).toNat, .seal, 20⟩)
      ∧ (sealing.unit (64#15).toNat).owner = some (5, 0) ∧ (sealing.unit (64#15).toNat).state = .parked := by decide +kernel

theorem witness_WriteRefusals :
    (sRun.takesFrames ∧ sectorsFit 1 1 = true ∧ sectorsFit 16 16 = true ∧ sectorsFit 0 0 = true ∧ sectorsFit 17 0 = true)
      ∧ 64 ≤ ({ sFive with intake := (List.range 64).map request } : State).intake.length
      ∧ ({ sFive with intake := (List.range 63).map request } : State).intake.length < 64
      ∧ (1023 < (1024#16).toNat ∧ (0#8).toNat = 0 ∧ 16 < (17#8).toNat)
      ∧ ((1023#16).toNat ≤ 1023 ∧ 1 ≤ (1#8).toNat ∧ (16#8).toNat ≤ 16)
      ∧ (State.reset.device = .config ∧ sHolding.device = .holding ∧ sHeld.device = .held ∧ sRun.device = .running
        ∧ (sRun.tenant (5#16).toNat).state = .vacant ∧ (draining.tenant (5#16).toNat).state = .draining) := by
  decide +kernel

theorem witness_WritesAreQueued :
    (Policy.reset.streamMap.getD ((15#8).toNat % 16) 0 < Policy.reset.activeStreams
      ∧ ({ Policy.reset with streamMap := [1] } : Policy).activeStreams ≤
        ({ Policy.reset with streamMap := [1] } : Policy).streamMap.getD ((16#8).toNat % 16) 0)
      ∧ (sFive.takesFrames ∧ sectorsFit 16 16 = true ∧ sFive.intake.length < 64 ∧ (5#16).toNat ≤ 1023
        ∧ 1 ≤ (16#8).toNat ∧ (16#8).toNat ≤ 16 ∧ sFive.device = .running ∧ (sFive.tenant (5#16).toNat).state = .active)
      ∧ (({ sFive with intake := [oneFrame] } : State).isQuiet
        ∧ ({ sFive with intake := [oneFrame] } : State).headOf (5#16).toNat ≠ none) := by decide +kernel

/-- Two sectors at the staging step, the half empty. -/
def sTwo : State := staging Policy.reset twoFrame (boundLane .active (filling 0) Half.reset)

/-- Half A of lane 0 holds fifteen sectors, half B is as given, and the lane has the current unit given. -/
def sFilling (state : LaneState) (current : Option (Nat × Nat)) (b : Half) : State :=
  staging Policy.reset twoFrame { boundLane state (filling 15) b with current := current }

theorem witness_SectorIsStaged :
    (sTwo.Canonical ∧ sTwo.isQuiet ∧ sTwo.servesHead (5#10).toNat = true ∧ sTwo.headOf (5#10).toNat = some twoFrame
      ∧ twoFrame.step = .staging ∧ (sTwo.stream (5#10).toNat twoFrame.stream).binding = .bound 0
      ∧ sTwo.refusesFirst (5#10).toNat 0 = false ∧ (sTwo.lane 0).room = some .a
      ∧ (sTwo.half 0 .a).slots.length + 1 ≠ 16 ∧ twoFrame.staged + 1 ≠ twoFrame.sectors.length)
    ∧ ∀ c ∈ [(LaneState.active, some (64, 3)), (.active, some (64, 255)), (.unitWait, none)],
      ∀ b ∈ [Half.reset, { filling 16 with state := .full }],
        (sFilling c.1 c.2 b).Canonical ∧ (sFilling c.1 c.2 b).isQuiet ∧ (sFilling c.1 c.2 b).servesHead (5#10).toNat = true
          ∧ (sFilling c.1 c.2 b).headOf (5#10).toNat = some twoFrame
          ∧ ((sFilling c.1 c.2 b).stream (5#10).toNat twoFrame.stream).binding = .bound 0
          ∧ (sFilling c.1 c.2 b).refusesFirst (5#10).toNat 0 = false ∧ ((sFilling c.1 c.2 b).lane 0).room = some .a
          ∧ ((sFilling c.1 c.2 b).half 0 .a).slots.length + 1 = 16 ∧ ((sFilling c.1 c.2 b).lane 0).current = c.2 := by
  refine ⟨⟨⟨by decide +kernel, by decide +kernel, by decide +kernel, by decide +kernel, by decide +kernel, by decide +kernel,
    by decide +kernel, by decide +kernel⟩, by decide +kernel⟩, fun c hc b hb => ⟨⟨?_, ?_, ?_, ?_, ?_, ?_, ?_, ?_⟩, ?_⟩⟩
  all_goals
    revert c b
    decide +kernel

/-- A FREE unit heads pool 0. -/
def sPool (p : Policy) (v : Lane) : State :=
  { (staging p oneFrame v).setUnit 128 ⟨.free, none, 0, 0, 0, none, false⟩ with pools := [(0, [128])] }

theorem witness_UnitsAreTaken :
    (∃ g, (sPool Policy.reset Lane.reset).choosePool 1#8 .wait = some g ∧ g = 0)
      ∧ (sPool Policy.reset Lane.reset).choosePool 2#8 .spill = some 0
      ∧ (sPool Policy.reset Lane.reset).choosePool 2#8 .wait = none ∧ sRun.choosePool 1#8 .spill = none
      ∧ (let v := boundLane .active Half.reset Half.reset
        let s := ((sPool Policy.reset v).setStream 5 0 ⟨.bound 0, some (64, 3), 0, 0⟩).setUnit 64
          ⟨.parked, some (5, 0), 48, 48, 3, none, false⟩
        (s.lane 0).stream = some (5, 0) ∧ (s.stream 5 0).parkedUnit = some (64, 3) ∧ (s.unit 64).state = .parked
          ∧ s.device ≠ .holding ∧ (s.lane 0).isBound = true)
      ∧ (let s := sPool Policy.reset (boundLane .unitWait Half.reset Half.reset)
        (s.lane 0).stream = some (5, 0) ∧ (s.stream 5 0).parkedUnit = none
          ∧ s.choosePool (s.tenant 5).active.poolMask .wait = some 0 ∧ s.pool 0 = 128 :: [] ∧ (s.unit 128).state = .free)
      ∧ (let s := staging refusing oneFrame (boundLane .active (filling 0) Half.reset)
        (s.lane 0).stream = some (5, 0) ∧ (s.stream 5 0).parkedUnit = none
          ∧ s.choosePool (s.tenant 5).active.poolMask .refuse = none ∧ s.device ≠ .holding ∧ (s.lane 0).isBound = true
          ∧ (s.lane 0).filling = some .a ∧ (s.tenant 5).active.noUnit = .refuse)
      ∧ (let s := staging Policy.reset oneFrame (boundLane .active (filling 0) Half.reset)
        s.choosePool (s.tenant 5).active.poolMask .wait = none ∧ s.device ≠ .holding ∧ (s.lane 0).isBound = true
          ∧ (s.tenant 5).active.noUnit = .wait) := by
  refine ⟨⟨0, ?_⟩, ?_⟩ <;> decide +kernel

/-- The last sector of a frame, which fills the half. -/
def sLast : State := staging Policy.reset oneFrame (boundLane .active (filling 15) Half.reset)

theorem witness_LastSectorCompletesTheFrame :
    sLast.servesHead (5#10).toNat = true ∧ sLast.headOf (5#10).toNat = some oneFrame ∧ oneFrame.step = .staging
      ∧ (sLast.stream (5#10).toNat oneFrame.stream).binding = .bound 0 ∧ sLast.refusesFirst (5#10).toNat 0 = false
      ∧ (sLast.lane 0).room = some .a ∧ oneFrame.staged + 1 = oneFrame.sectors.length := by decide +kernel

/-- A lane under REFUSE in the unit wait queue. -/
def sRefusing : State :=
  { staging refusing oneFrame (boundLane .unitWait Half.reset Half.reset) with unitWait := [0] }

/-- A lane without room. -/
def sNoRoom : State :=
  staging Policy.reset oneFrame (boundLane .active { filling 16 with state := .full } { filling 16 with state := .full })

theorem witness_OfferNotStaged :
    (sRefusing.servesHead (5#10).toNat = true ∧ sRefusing.headOf (5#10).toNat = some oneFrame
      ∧ (sRefusing.stream (5#10).toNat oneFrame.stream).binding = .bound 0 ∧ oneFrame.staged = 0
      ∧ sRefusing.refusesFirst (5#10).toNat 0 = true)
      ∧ (sNoRoom.isQuiet ∧ sNoRoom.servesHead (5#10).toNat = true ∧ sNoRoom.headOf (5#10).toNat = some oneFrame
        ∧ (sNoRoom.stream (5#10).toNat oneFrame.stream).binding = .bound 0
        ∧ sNoRoom.refusesFirst (5#10).toNat 0 = false ∧ (sNoRoom.lane 0).room = none)
      ∧ (∀ b ∈ [Binding.waiting, .unbound],
        let s := sTwo.setStream 5 0 ⟨b, none, 0, 0⟩
        s.isQuiet ∧ s.servesHead (5#10).toNat = true ∧ s.headOf (5#10).toNat = some twoFrame ∧ twoFrame.step = .staging
          ∧ twoFrame.settlement ≠ .unsettled ∧ (s.stream (5#10).toNat twoFrame.stream).binding = b)
      ∧ (sHeld.isQuiet ∧ sHeld.servesHead (5#10).toNat = false) := by decide +kernel

theorem witness_HoldAsserted : sHeld.device ≠ .running ∧ sLast.device = .running ∧ oneFrame ∈ sLast.intake := by
  decide +kernel

/-- HELD with auto-resume on, under CONTINUOUS. -/
def sResuming : State :=
  { sHeld with settings := { Settings.reset with autoResume := true, trigger := .continuous } }

theorem witness_ReturnFromHold :
    ¬(sHeld.device = .held ∧ sHeld.settings.autoResume = true)
      ∧ (sResuming.device = .held ∧ sResuming.settings.autoResume = true ∧ sResuming.settings.trigger = .continuous
        ∧ sResuming.scan = none)
      ∧ (sRun.takesControl ∧ sRun.device ≠ .held)
      ∧ (sHeld.takesControl ∧ ({ sHeld with holdLevel := true } : State).holdLevel = true ∧ sHeld.holdLevel = false) := by
  decide

/-- Lane 0 is bound to stream 0 of tenant 5, which owns the OPEN unit 64. -/
def sBound : State :=
  { (((sRun.setTenant 5 { active Policy.reset with bound := 1, owned := 1 }).setLane 0
      (boundLane .active (filling 3) Half.reset)).setUnit 64 ⟨.opened, some (5, 0), 0, 0, 3, none, false⟩).setStream 5 0
      ⟨.bound 0, none, 0, 0⟩ with
    recency := [0] }

theorem sBound_lanes : sBound.lanes = [(0, boundLane .active (filling 3) Half.reset)] := by decide +kernel

theorem sBound_units : sBound.units = [(64, ⟨.opened, some (5, 0), 0, 0, 3, none, false⟩)] := by decide +kernel

theorem sBound_tenants :
    sBound.tenants =
      [(0, { Tenant.reset with state := .active }), (5, { active Policy.reset with bound := 1, owned := 1 })] := by
  decide +kernel

theorem sBound_lane (l : Nat) :
    sBound.lane l = if 0 = l then boundLane .active (filling 3) Half.reset else Lane.reset := by
  simp [State.lane, sBound_lanes, rowOf]

theorem sBound_stream (t x : Nat) :
    sBound.stream t x = if 40 = streamKey t x then ⟨.bound 0, none, 0, 0⟩ else StreamCtx.reset := by
  have h : sBound.streams = [(40, ⟨.bound 0, none, 0, 0⟩)] := by decide +kernel
  simp [State.stream, h, rowOf]

theorem sBound_unit (u : Nat) :
    sBound.unit u = if 64 = u then ⟨.opened, some (5, 0), 0, 0, 3, none, false⟩ else UnitRec.reset := by
  simp [State.unit, sBound_units, rowOf]

theorem sBound_coherent : sBound.Coherent where
  recencyOnce := by decide +kernel
  recency l := by
    rw [sBound_lane]
    by_cases h : l = 0
    · subst h
      decide +kernel
    · simp [sBound, h, Ne.symm h, Lane.isBound, Lane.reset]
  named l := by
    rw [sBound_lane]
    by_cases h : l = 0
    · subst h
      decide +kernel
    · simp [Ne.symm h, Lane.reset]
  bound t := by
    by_cases h : t = 5
    · subst h
      decide +kernel
    · by_cases h0 : t = 0
      · subst h0
        decide +kernel
      · simp [State.tenant, sBound_tenants, sBound_lanes, rowOf, Ne.symm h, Ne.symm h0, Tenant.reset, boundLane,
          Lane.belongsTo]
  laneWaitOnce := by decide +kernel
  waiting t x h := by
    rw [sBound_stream] at h
    split at h <;> cases h
  unitWaitOnce := by decide +kernel
  unitWait l := by
    rw [sBound_lane]
    by_cases h : l = 0
    · subst h
      decide +kernel
    · simp [Ne.symm h, Lane.reset]
  pools u g := by
    have hp : sBound.pool g = [] := rfl
    by_cases h : 64 = u <;> simp [State.unit, sBound_units, rowOf, hp, h, UnitRec.reset]
  parked := by decide +kernel
  owned t := by
    by_cases h : t = 5
    · subst h
      decide +kernel
    · by_cases h0 : t = 0
      · subst h0
        decide +kernel
      · simp [State.tenant, sBound_tenants, sBound_units, rowOf, Ne.symm h, Ne.symm h0, Tenant.reset, UnitRec.ownedBy]
  floors := by decide +kernel

theorem sBound_canonical : sBound.Canonical :=
  ⟨by decide +kernel, by decide +kernel, by decide +kernel, by decide +kernel, by decide +kernel, by decide +kernel,
    by decide +kernel, by decide +kernel⟩

theorem sBound_inRange : sBound.InRange where
  settings := ⟨by decide, by decide, by decide, by decide, by decide, by decide, by decide⟩
  tenants t := by
    have h : sBound.tenant t = if 0 = t then { Tenant.reset with state := .active }
        else if 5 = t then { active Policy.reset with bound := 1, owned := 1 } else Tenant.reset := by
      simp [State.tenant, sBound_tenants, rowOf]
    rw [h]
    have v := tenant_reset_inRange
    split
    · exact ⟨v.active, v.pendingPolicy, v.credit, v.band, v.watch, v.counters⟩
    · split
      · exact ⟨v.active, v.pendingPolicy, v.credit, v.band, v.watch, v.counters⟩
      · exact v
  counters := ⟨by decide, by decide, by decide, by decide, by decide, by decide, by decide, by decide, by decide⟩
  streams t x := by
    rw [sBound_stream]
    split <;> exact ⟨Nat.zero_le _, Nat.zero_le _⟩
  units u := by
    rw [sBound_unit]
    split <;> exact ⟨Nat.zero_le _⟩

theorem witness_ListsAndCountsKept : sBound.Canonical ∧ sBound.Coherent ∧ ∃ t, step sBound = .next t :=
  ⟨sBound_canonical, sBound_coherent, _, rfl⟩

theorem sBound_die (d : Nat) : sBound.die d = Die.reset := rfl

theorem sBound_names (l t x : Nat) (h : (sBound.lane l).stream = some (t, x)) : l = 0 ∧ t = 5 ∧ x = 0 := by
  rw [sBound_lane] at h
  split at h
  · rename_i hl
    cases h
    exact ⟨hl.symm, rfl, rfl⟩
  · cases h

theorem sBound_linked : sBound.Linked where
  config h := by cases h
  intake h := absurd rfl h
  frames f h := by cases h
  laneWait t x h := by cases h
  boundLane l t x _ hs := by
    obtain ⟨rfl, rfl, rfl⟩ := sBound_names l t x hs
    decide +kernel
  boundStream t x l hx h := by
    rw [sBound_stream] at h
    split at h
    · rename_i hk
      have h5 : t = 5 ∧ x = 0 := by
        simp only [streamKey, Config.streamCount] at hk
        omega
      obtain ⟨rfl, rfl⟩ := h5
      cases h
      decide +kernel
    · cases h
  laneOwner l t x hs := by
    obtain ⟨rfl, rfl, rfl⟩ := sBound_names l t x hs
    decide +kernel
  quota _ t := by
    by_cases h : t = 5
    · subst h
      decide +kernel
    · by_cases h0 : t = 0
      · subst h0
        decide +kernel
      · simp [State.tenant, sBound_tenants, rowOf, Ne.symm h, Ne.symm h0, Tenant.reset]
  inFlight g := by simp [State.inFlight, sBound_die, Die.reset]

theorem witness_LinksKept :
    sBound.Canonical ∧ sBound.InRange ∧ sBound.Coherent ∧ sBound.Linked ∧ ∃ t, step sBound = .next t :=
  ⟨sBound_canonical, sBound_inRange, sBound_coherent, sBound_linked, _, rfl⟩

theorem sBound_half (l : Nat) (h : HalfId) : sBound.half l h = if l = 0 ∧ h = .a then filling 3 else Half.reset := by
  unfold State.half
  rw [sBound_lane]
  by_cases hl : l = 0
  · subst hl
    cases h <;> rfl
  · rw [if_neg (fun e => hl e.symm), if_neg (fun e => hl e.1)]
    cases h <;> rfl

theorem sBound_assigned (l : Nat) (h : HalfId) : (sBound.half l h).assigned = none := by
  rw [sBound_half]
  split <;> rfl

theorem sBound_unsealed (u : Nat) : ¬sBound.sealAsked u := by
  rintro (h | h)
  · rw [sBound_die] at h
    cases h
  · simp [State.sealInFlight, sBound_die, Die.reset] at h

theorem sBound_current (l u n : Nat) (h : (sBound.lane l).current = some (u, n)) : l = 0 ∧ u = 64 ∧ n = 3 := by
  rw [sBound_lane] at h
  split at h
  · rename_i hl
    cases h
    exact ⟨hl.symm, rfl, rfl⟩
  · cases h

theorem sBound_placed : sBound.Placed where
  halves l h := by
    rw [sBound_half]
    split
    · exact ⟨fun e => (by cases e), fun _ => (by decide), fun e => (by rcases e with e | e <;> cases e),
        fun e => (by cases e), by simp [filling]⟩
    · exact ⟨fun _ => rfl, fun e => (by cases e), fun e => (by rcases e with e | e <;> cases e), fun e => (by cases e),
        by simp [Half.reset]⟩
  filling l := by
    rw [sBound_lane]
    split <;> decide
  free l h := by
    rw [sBound_lane] at h ⊢
    split at h
    · cases h
    · rename_i hl
      rw [if_neg hl]
      decide
  current l u n h := by
    obtain ⟨rfl, rfl, rfl⟩ := sBound_current l u n h
    decide +kernel
  currentOnce l k u n m h h' := (sBound_current l u n h).1.trans (sBound_current k u m h').1.symm
  assigned l h u n e := by simp [sBound_assigned] at e
  assignedOnce l h k j u n m e := by simp [sBound_assigned] at e
  orders d o h := by cases h
  programming l h u n _ e := by simp [sBound_assigned] at e
  queues d := by simp [sBound_die, Die.reset]
  full l h u n _ e := by simp [sBound_assigned] at e
  rising d u := by simp [State.stripesOn, sBound_die, Die.reset]
  parked t x u n _ h := by
    rw [sBound_stream] at h
    split at h <;> cases h
  sealing u h := absurd h (sBound_unsealed u)
  unused u h := by
    rw [sBound_unit] at h ⊢
    split at h
    · cases h
    · cases h
  programmed u := by
    refine ⟨?_, ?_, fun l => ?_⟩
    · rw [sBound_unit]; split <;> decide
    · rw [sBound_unit]; split <;> decide
    · have h : (sBound.lane l).assignedTo u = 0 := by
        rw [sBound_lane]
        split <;> simp [Lane.assignedTo, boundLane, filling, Half.reset, Lane.reset]
      rw [h, sBound_unit]
      split <;> decide
  unitWait l h := by cases h
  waiting l h := by
    rw [sBound_lane] at h
    split at h <;> exact absurd (by decide) h
  padded h := by cases h
  noUnit _ l hb hc := by
    rw [sBound_lane] at hb hc
    split at hc
    · cases hc
    · rename_i hl
      rw [if_neg hl] at hb
      cases hb

theorem witness_PlacingKept :
    sBound.Canonical ∧ sBound.InRange ∧ sBound.Coherent ∧ sBound.Linked ∧ sBound.Placed ∧ ∃ t, step sBound = .next t :=
  ⟨sBound_canonical, sBound_inRange, sBound_coherent, sBound_linked, sBound_placed, _, rfl⟩

end Sys2Proof.Tests
end

namespace Sys2Proof.Machine

/-- t holds the settings, the tables, the notices and the counters of s: it may differ from s in the queues, lists and
registers beside them. -/
structure SameRecords (s t : State) : Prop where
  settings : t.settings = s.settings := by rfl
  tenants : t.tenants = s.tenants := by rfl
  streams : t.streams = s.streams := by rfl
  lanes : t.lanes = s.lanes := by rfl
  units : t.units = s.units := by rfl
  dies : t.dies = s.dies := by rfl
  pools : t.pools = s.pools := by rfl
  groupPos : t.groupPos = s.groupPos := by rfl
  notices : t.notices = s.notices := by rfl
  attention : t.attention = s.attention := by rfl
  counters : t.counters = s.counters := by rfl

/-- A property that, besides the internal events, everything that a command itself does keeps: it does not depend on the
queues and registers, it is kept by every rewriting of a record that leaves the record in its ranges, and reset has
it. -/
structure ClosedToCommands (P : State → Prop) : Prop extends ClosedToAll P where
  records : ∀ {s t : State}, SameRecords s t → P s → P t
  newSettings : ∀ {s : State} {v : Settings}, v.InRange → P s → P { s with settings := v }
  counted : ∀ {s : State} {f}, (∀ c : DeviceCounters, c.InRange → (f c).InRange) → P s → P (s.modCounters f)
  tenant : ∀ {s : State} {t v}, ((s.tenant t).InRange → v.InRange) → P s → P (s.setTenant t v)
  /-- a pending record becomes the active one (R32) -/
  applied : ∀ {s : State} {t p}, (s.tenant t).pendingPolicy = some p → P s →
    P ((s.modTenant t (fun v => { v with pendingPolicy := none })).modTenant t (Tenant.under p))
  stream : ∀ {s : State} {t x v}, ((s.stream t x).InRange → v.InRange) → P s → P (s.setStream t x v)
  unit : ∀ {s : State} {u r}, ((s.unit u).InRange → r.InRange) → P s → P (s.setUnit u r)
  lane : ∀ {s : State} {l v}, P s → P (s.setLane l v)
  aged : ∀ {s : State} {e}, P s → P (s.ageUnits e)
  posted : ∀ {s : State} {src kind d}, P s → P (s.post src kind d)
  /-- the pending set of the first source is sent whole (R12) -/
  noticeSent : ∀ {s : State} {src rest}, s.attention = src :: rest → P s →
    P { s with attention := rest, notices := putRow [] s.notices src [] }
  reset : P State.reset


/-! ## Ranges of what commands write -/

theorem clampTo_le {lo hi : Nat} (h : lo ≤ hi) (v : Nat) : lo ≤ clampTo lo hi v ∧ clampTo lo hi v ≤ hi := by
  unfold clampTo
  omega

/-- The settings that a CONFIGURE brings are in their ranges (R14). -/
theorem settingsOf_inRange {raw : RawSettings} {v : Settings} (h : settingsOf raw = some v) : v.InRange := by
  obtain ⟨trigger, -, rfl⟩ := Option.map_eq_some_iff.mp h
  exact
    { epochLength := clampTo_le (by decide) _
      programTimeout := clampTo_le (by decide) _
      drainDeadline := (clampTo_le (by decide) _).2
      parkedLimit := (clampTo_le (by decide) _).2
      groupLimit := clampTo_le (by decide) _
      lowWater := (clampTo_le (by decide) _).2
      scanRepetition := Nat.le_of_lt_succ raw.scanRepetition.isLt }

theorem clampAllowance_range (n : Nat) :
    clampAllowance n = 0 ∨ 16 ≤ clampAllowance n ∧ clampAllowance n ≤ 1048575 := by
  unfold clampAllowance
  split
  · exact Or.inl rfl
  · exact Or.inr (clampTo_le (by decide) n)

/-- A record that passes the checks of R23 is stored in its ranges (R24). -/
theorem policyOf_inRange {raw : RawPolicy} {p : Policy} (hf : raw.fits = true) (h : policyOf raw = some p) :
    p.InRange := by
  unfold policyOf at h
  split at h
  · rename_i hr _ _ _
    simp only [policyRangesOk, Bool.and_eq_true, decide_eq_true_eq, List.all_eq_true, ne_eq] at hr
    obtain ⟨⟨⟨⟨⟨hlo, hhi⟩, hmap⟩, hquota⟩, hmask⟩, hwatch⟩ := hr
    obtain rfl := Option.some.inj h
    have hlen : raw.streamMap.length = 16 := by simpa [RawPolicy.fits] using hf
    have hhigh := raw.watchHigh.isLt
    refine
      { activeStreams := ⟨hlo, hhi⟩
        streamMap := ⟨by simpa using hlen, ?_⟩
        allowance := clampAllowance_range _
        laneQuota := ?_
        laneFloor := ?_
        poolMask := hmask
        watch := ⟨hwatch, ?_, min_le_right _ _⟩ }
    · intro e he
      obtain ⟨b, hb, rfl⟩ := List.mem_map.mp he
      exact hmap b hb
    all_goals dsimp only; omega
  · cases h

theorem TenantCounters.reset_inRange : TenantCounters.reset.InRange :=
  ⟨by decide, by decide, by decide, by decide, by decide, by decide, by decide⟩

/-- A tenant context whose counters are rewritten within their ranges. -/
theorem Tenant.InRange.setCounters {v : Tenant} (h : v.InRange) {c : TenantCounters} (hc : c.InRange) :
    ({ v with counters := c } : Tenant).InRange := { h with counters := hc }

/-- A tenant context that takes a new active record: balance and watch record follow it (R29, R49). -/
theorem Tenant.InRange.under {v : Tenant} (h : v.InRange) {p : Policy} (hp : p.InRange) : (Tenant.under p v).InRange := by
  have hnew := hp.allowance
  have hold := h.active.allowance
  have hcredit := h.credit
  have hband := h.band
  have hcount := h.watch
  refine { h with active := hp, credit := ?_, band := ?_, watch := ?_ }
  · show creditUnder v.active p v.credit ≤ 2097150
    unfold creditUnder
    split_ifs <;> omega
  · intro hne
    show creditUnder v.active p v.credit ≤ 2 * p.allowance
    have hne : p.allowance ≠ 0 := hne
    unfold creditUnder
    split_ifs <;> omega
  · show WatchRecord.count (if v.active.watchDiffers p then ⟨0, .none⟩ else v.watch) < max p.watchDepth 1
    split
    · exact lt_max_of_lt_right Nat.zero_lt_one
    · rename_i hd
      simp only [Policy.watchDiffers, Bool.or_eq_true, decide_eq_true_eq, not_or, not_not] at hd
      rw [← hd.2]
      exact hcount

theorem WatchRecord.after_count_le (w : WatchRecord) (side : Side) : (w.after side).count ≤ w.count + 1 := by
  unfold WatchRecord.after
  split
  · exact Nat.zero_le _
  · split
    · exact le_rfl
    · exact Nat.succ_le_succ (Nat.zero_le _)

/-- A sample that is no repetition to the full depth leaves the watch record within it (R161, R163). -/
theorem Tenant.InRange.watched {v : Tenant} (h : v.InRange) {side : Side} (hd : 0 < v.active.watchDepth)
    (hw : (v.watch.after side).count ≠ v.active.watchDepth) :
    ({ v with watch := v.watch.after side } : Tenant).InRange := by
  have hbefore := h.watch
  have hafter := v.watch.after_count_le side
  refine { h with watch := ?_ }
  show (v.watch.after side).count < max v.active.watchDepth 1
  omega

/-- The refill of an epoch boundary ends within twice the allowance (R50). -/
theorem Tenant.InRange.refilled {v : Tenant} (h : v.InRange) :
    ({ v.refill with epochEvictions := 0 } : Tenant).InRange := by
  unfold Tenant.refill
  split
  · exact { h with }
  · have hset := h.setCredit (c := min (v.credit + v.active.allowance) (2 * v.active.allowance))
      (Or.inr (min_le_right _ _))
    exact { hset with }

/-- The context of a newly admitted tenant (R27). -/
theorem Tenant.InRange.enrolled {v : Tenant} {p : Policy} (hp : p.InRange) :
    ({ v with
        state := .active, active := p, pendingPolicy := none, credit := p.allowance, epochEvictions := 0
        watch := ⟨0, .none⟩, counters := TenantCounters.reset } : Tenant).InRange := by
  have ha := hp.allowance
  exact
    { active := hp
      pendingPolicy := fun _ e => by cases e
      credit := by show p.allowance ≤ 2097150; omega
      band := fun _ => by show p.allowance ≤ 2 * p.allowance; omega
      watch := lt_max_of_lt_right Nat.zero_lt_one
      counters := TenantCounters.reset_inRange }

/-- The entries of a list request, one after the other. -/
theorem handleEntries_keeps {P : State → Prop} {ε : Type} {one : ε → State → State × Status}
    (ho : ∀ e q, P q → P (one e q).1) (l : List ε) {s : State} (h : P s) : P (handleEntries one l s).1 := by
  induction l generalizing s with
  | nil => exact h
  | cons e rest ih => exact ih (ho e s h)

namespace ClosedToCommands

variable {P : State → Prop}

/-! ## The link -/

theorem reply (c : ClosedToCommands P) {s : State} {tag status body} (h : P s) : P (s.reply tag status body) :=
  c.records {} h

theorem mapTenant (c : ClosedToCommands P) {s : State} {t f} (hf : ∀ v : Tenant, v.InRange → (f v).InRange) (h : P s) :
    P (s.modTenant t f) := c.tenant (hf _) h

theorem mapUnit (c : ClosedToCommands P) {s : State} {u f} (hf : ∀ r : UnitRec, r.InRange → (f r).InRange) (h : P s) :
    P (s.modUnit u f) := c.unit (hf _) h

theorem mapStream (c : ClosedToCommands P) {s : State} {t x f} (hf : ∀ v : StreamCtx, v.InRange → (f v).InRange)
    (h : P s) : P (s.modStream t x f) := c.stream (hf _) h

/-- The counters of a tenant rewritten within their ranges. -/
theorem mapTenantCounters (c : ClosedToCommands P) {s : State} {t f}
    (hf : ∀ k : TenantCounters, k.InRange → (f k).InRange) (h : P s) : P (s.modTenantCounters t f) :=
  c.mapTenant (fun _ hv => hv.setCounters (hf _ hv.counters)) h

theorem discardFrame (c : ClosedToCommands P) {s : State} (h : P s) : P s.discardFrame :=
  c.posted (c.counted (fun _ hk => { hk with linkErrors := bump_le _ _ }) h)

/-- A frame that is taken goes on to its rule; it may be discarded or not accepted instead. -/
theorem receive (c : ClosedToCommands P) {s : State} {fits act} (ha : fits = true → ∀ q, P q → P (act q)) (h : P s) :
    P (s.receive fits act) := by
  have hn : P s.noteRx := c.records {} h
  unfold State.receive
  split
  · exact h
  · dsimp only
    split
    · exact c.discardFrame (c.records {} hn)
    · split
      · exact ha ‹_› _ hn
      · exact c.discardFrame hn

theorem control (c : ClosedToCommands P) {s : State} {tag fits act} (ha : fits = true → ∀ q, P q → P (act q))
    (h : P s) : P (s.control tag fits act) :=
  c.receive (fun hf _ hq => ite_keeps (c.reply hq) (ha hf _ hq)) h

theorem clearCounters (c : ClosedToCommands P) {s : State} {target} (h : P s) : P (s.clearCounters target) := by
  unfold State.clearCounters
  split
  · exact c.counted (f := fun _ => DeviceCounters.reset)
      (fun _ _ => ⟨by decide, by decide, by decide, by decide, by decide, by decide, by decide, by decide, by decide⟩) h
  · exact c.mapTenantCounters (fun _ _ => TenantCounters.reset_inRange) h
  · exact c.mapStream (fun _ _ => ⟨Nat.zero_le _, Nat.zero_le _⟩) h
  · exact h

theorem takeQuery (c : ClosedToCommands P) {s : State} {tag target clear} (h : P s) :
    P (s.takeQuery tag target clear) := by
  unfold State.takeQuery
  split
  · exact c.reply (ite_keeps (c.clearCounters h) h)
  · exact c.reply h

theorem takeConfigure (c : ClosedToCommands P) {s : State} {tag raw} (h : P s) : P (s.takeConfigure tag raw) := by
  unfold State.takeConfigure
  split
  · split
    · exact c.reply (c.newSettings (settingsOf_inRange ‹_›) h)
    · exact c.reply h
  · exact c.reply h

theorem takeGrant (c : ClosedToCommands P) {s : State} {tag grant} (h : P s) : P (s.takeGrant tag grant) :=
  ite_keeps (c.reply h) (c.records {} h)

theorem takePolicyHold (c : ClosedToCommands P) {s : State} {tag code} (h : P s) : P (s.takePolicyHold tag code) := by
  unfold State.takePolicyHold
  split <;> exact c.records {} h

theorem afterReset (c : ClosedToCommands P) (s : State) (hold : Bool) : P (s.afterReset hold) := c.records {} c.reset

theorem sendReply (c : ClosedToCommands P) {s t : State} (e : execSendReply s = .next t) (h : P s) : P t := by
  cases e
  split
  · exact h
  · exact ite_keeps h (c.records {} h)

theorem sendPlacementReport (c : ClosedToCommands P) {s t : State} (e : execSendPlacementReport s = .next t) (h : P s) :
    P t := by
  cases e
  split
  · exact ite_keeps (c.grantRoom (c.records {} h)) h
  · exact h

theorem sendNotice (c : ClosedToCommands P) {s t : State} (e : execSendNotice s = .next t) (h : P s) : P t := by
  cases e
  split
  · exact ite_keeps (c.records {} (c.noticeSent ‹_› h)) h
  · exact h

/-! ## Scans -/

theorem scanTrigger (c : ClosedToCommands P) {s : State} (h : P s) : P s.scanTrigger :=
  ite_keeps (c.records {} h) (c.triggerIgnored h)

theorem continuousScan (c : ClosedToCommands P) {s : State} (h : P s) : P s.continuousScan :=
  ite_keeps (c.records {} h) h

theorem completeScan (c : ClosedToCommands P) {s : State} (h : P s) : P s.completeScan := by
  have hnoted : P (({ s with nominations := s.working.map (fun e => ⟨e, false⟩), working := [] } : State).post
      Config.deviceSource .nominationsReady (BitVec.ofNat 32 s.working.length)) := c.posted (c.records {} h)
  exact ite_keeps (c.continuousScan (c.records {} hnoted)) (c.records {} hnoted)

theorem visitNext (c : ClosedToCommands P) {s : State} {sc} (h : P s) : P (s.visitNext sc) := by
  have hvisit : P (s.visitUnit sc) := ite_keeps (c.records {} h) (c.records {} h)
  exact ite_keeps hvisit (c.completeScan hvisit)

theorem takeStartScan (c : ClosedToCommands P) {s : State} {tag scope tenant} (h : P s) :
    P (s.takeStartScan tag scope tenant) := by
  unfold State.takeStartScan
  split
  · exact c.reply h
  · split
    · exact c.reply h
    · exact ite_keeps (c.reply h) (c.records {} h)

theorem reclaim (c : ClosedToCommands P) {s : State} {u} (h : P s) : P (s.reclaim u) :=
  c.records {} (c.mapUnit (u := u) (f := fun r => { r with state := .reclaiming }) (fun _ hr => ⟨hr.valid⟩) h)

theorem sample (c : ClosedToCommands P) {s : State} {t source x} (h : P s) : P (s.sample t source x) := by
  unfold State.sample
  dsimp only
  split
  · rename_i hs
    simp only [Bool.and_eq_true, decide_eq_true_eq] at hs
    unfold State.classifySample
    dsimp only
    split
    · exact c.posted (c.mapTenant (fun _ hv => { hv with watch := lt_max_of_lt_right Nat.zero_lt_one }) h)
    · exact c.tenant (fun hv => hv.watched hs.2 ‹_›) h
  · exact h

theorem takeNomination (c : ClosedToCommands P) {s : State} {tag scope tenant} (h : P s) :
    P (s.takeNomination tag scope tenant) := by
  unfold State.takeNomination
  split
  · exact c.reply h
  · split
    · exact c.reply h
    · unfold State.take
      dsimp only
      split
      · exact c.sample (c.reply (c.reclaim (c.records {} h)))
      · exact c.records {} h

theorem takeReclaim (c : ClosedToCommands P) {s : State} {tag unit} (h : P s) : P (s.takeReclaim tag unit) :=
  ite_keeps (c.reply h) (ite_keeps (c.reply h) (ite_keeps (c.reply (c.reclaim h)) (c.reply h)))

/-! ## Lists of units -/

theorem declareOne (c : ClosedToCommands P) {e} {s : State} (h : P s) : P (declareOne e s).1 := by
  unfold Machine.declareOne
  dsimp only
  split_ifs
  · exact h
  · exact h
  · exact c.mapTenant (f := fun v => { v with owned := v.owned + 1 }) (fun _ hv => { hv with })
      (c.unit (r := sealedDeclared s.epoch e) (fun _ => ⟨min_le_right _ _⟩) h)
  · exact h
  · exact c.unit (fun _ => ⟨Nat.zero_le _⟩) h
  · exact c.unit (fun _ => ⟨Nat.zero_le _⟩) h

theorem takeDeclare (c : ClosedToCommands P) {s : State} {tag count entries} (h : P s) :
    P (s.takeDeclare tag count entries) :=
  ite_keeps (c.reply h) (ite_keeps (c.reply (handleEntries_keeps (fun _ _ => c.declareOne) entries h)) (c.reply h))

theorem supplyOne (c : ClosedToCommands P) {unit} {s : State} (h : P s) : P (supplyOne unit s).1 := by
  unfold Machine.supplyOne
  dsimp only
  split_ifs
  · exact h
  · exact c.setPool (c.unit (fun _ => ⟨Nat.zero_le _⟩) h)
  · exact h

theorem takeSupply (c : ClosedToCommands P) {s : State} {tag count entries} (h : P s) :
    P (s.takeSupply tag count entries) := by
  have hall := handleEntries_keeps (one := Machine.supplyOne) (fun _ _ => c.supplyOne) entries h
  exact ite_keeps (c.reply h) (ite_keeps (c.reply h)
    (c.conclude (c.reply (ite_keeps (c.runWork (c.raiseService hall)) hall))))

theorem lowWaterCheck (c : ClosedToCommands P) {s : State} {g} (h : P s) : P (s.lowWaterCheck g) :=
  c.toClosed.lowWaterCheck h

theorem disown (c : ClosedToCommands P) {s : State} {t} (h : P s) : P (s.disown t) := by
  have hless : P (s.modTenant t (fun v => { v with owned := v.owned - 1 })) :=
    c.mapTenant (fun _ hv => { hv with }) h
  unfold State.disown
  dsimp only
  split
  · rename_i hs
    simp only [Bool.and_eq_true, decide_eq_true_eq] at hs
    exact c.vacate hs.1 hless
  · exact hless

theorem release (c : ClosedToCommands P) {s : State} {u} (h : P s) : P (s.release u) := by
  have hfree : P (s.modUnit u fun r =>
      { r with state := if r.failed then .retired else .vacant, owner := none, valid := 0, sealEpoch := none }) :=
    c.mapUnit (fun _ _ => ⟨Nat.zero_le _⟩) h
  unfold State.release
  dsimp only
  split
  · exact c.disown hfree
  · exact hfree

theorem releaseOne (c : ClosedToCommands P) {force unit} {s : State} (h : P s) : P (releaseOne force unit s).1 := by
  unfold Machine.releaseOne
  dsimp only
  split
  · exact h
  · split
    · exact c.lowWaterCheck (c.mapUnit (fun _ hr => ⟨hr.valid⟩) (c.setPool h))
    · split_ifs
      · exact c.release h
      · exact c.counted (f := fun k => { k with forcedReleases := bump k.forcedReleases 1 })
          (fun _ hk => { hk with forcedReleases := bump_le _ _ }) (c.release h)
      · exact h
    · exact h

theorem takeRelease (c : ClosedToCommands P) {s : State} {tag force count entries} (h : P s) :
    P (s.takeRelease tag force count entries) :=
  ite_keeps (c.reply h) (ite_keeps (c.reply h) (c.reply (handleEntries_keeps (fun _ _ => c.releaseOne) entries h)))

theorem invalidateOne (c : ClosedToCommands P) {e} {s : State} (h : P s) : P (invalidateOne e s).1 := by
  have hless : P (s.modUnit e.unit.toNat (fun r => { r with valid := r.valid - e.count.toNat })) :=
    c.mapUnit (fun _ hr => ⟨le_trans (Nat.sub_le _ _) hr.valid⟩) h
  unfold Machine.invalidateOne
  dsimp only
  split
  · exact h
  · split
    · exact ite_keeps (c.counted (fun _ hk => { hk with underruns := bump_le _ _ }) hless) hless
    · exact c.counted (f := fun k => { k with invalidatesIgnored := bump k.invalidatesIgnored 1 })
        (fun _ hk => { hk with invalidatesIgnored := bump_le _ _ }) h

theorem takeInvalidate (c : ClosedToCommands P) {s : State} {tag count entries} (h : P s) :
    P (s.takeInvalidate tag count entries) :=
  ite_keeps (c.reply h) (c.reply (handleEntries_keeps (fun _ _ => c.invalidateOne) entries h))

/-! ## Tenants -/

theorem tenantRequest (c : ClosedToCommands P) {s : State} {tag tenant act} (ha : P (act s)) (h : P s) :
    P (s.tenantRequest tag tenant act) := by
  unfold State.tenantRequest
  split
  · exact c.reply h
  · exact ha

theorem enrol (c : ClosedToCommands P) {s : State} {t p} (hp : p.InRange) (h : P s) : P (s.enrol t p) :=
  c.mapTenant (fun _ _ => Tenant.InRange.enrolled hp)
    (foldl_closed (fun _ _ => c.stream (fun _ => ⟨Nat.zero_le _, Nat.zero_le _⟩)) _ h)

theorem takeAdmit (c : ClosedToCommands P) {s : State} {tag tenant raw} (hf : raw.fits = true) (h : P s) :
    P (s.takeAdmit tag tenant raw) := by
  refine c.tenantRequest ?_ h
  dsimp only
  split
  · split
    · exact c.reply h
    · exact ite_keeps (c.reply h) (c.reply (c.enrol (policyOf_inRange hf ‹_›) h))
  · exact c.reply h
  · exact c.reply h

theorem setNow (c : ClosedToCommands P) {s : State} {tag t p} (hp : p.InRange) (h : P s) : P (s.setNow tag t p) := by
  have happly : P (s.applyRecord t p) := c.applyRecord (c.mapTenant (fun _ hv => hv.under hp) h)
  exact ite_keeps (c.reply h) (c.conclude (c.reply (c.runWork happly)))

theorem setAtEpoch (c : ClosedToCommands P) {s : State} {tag t p} (hp : p.InRange) (h : P s) :
    P (s.setAtEpoch tag t p) :=
  ite_keeps (c.reply h) (c.reply (c.mapTenant
    (fun _ hv => { hv with pendingPolicy := fun q hq => by rwa [← Option.some.inj hq] }) h))

theorem takeSetPolicy (c : ClosedToCommands P) {s : State} {tag tenant whenCode raw} (hf : raw.fits = true) (h : P s) :
    P (s.takeSetPolicy tag tenant whenCode raw) := by
  refine c.tenantRequest ?_ h
  dsimp only
  split
  · split
    · exact c.setNow (policyOf_inRange hf ‹_›) h
    · exact c.setAtEpoch (policyOf_inRange hf ‹_›) h
    · exact c.reply h
  · exact c.reply h

theorem takeCancel (c : ClosedToCommands P) {s : State} {tag tenant} (h : P s) : P (s.takeCancel tag tenant) := by
  refine c.tenantRequest (ite_keeps (ite_keeps (c.reply (c.mapTenant ?_ h)) (c.reply h)) (c.reply h)) h
  exact fun _ hv => { hv with pendingPolicy := fun _ e => by cases e }

theorem takeSuspend (c : ClosedToCommands P) {s : State} {tag tenant} (h : P s) : P (s.takeSuspend tag tenant) := by
  refine c.tenantRequest (ite_keeps (c.conclude (c.reply (c.runWork (c.raiseCheck (c.mapTenant ?_ h))))) (c.reply h)) h
  exact fun _ hv => { hv with }

theorem takeResume (c : ClosedToCommands P) {s : State} {tag tenant} (h : P s) : P (s.takeResume tag tenant) := by
  refine c.tenantRequest (ite_keeps (c.conclude (c.reply (c.runWork (c.serveAgain (c.mapTenant ?_ h))))) (c.reply h)) h
  exact fun _ hv => { hv with }

theorem remove (c : ClosedToCommands P) {s : State} {tag t mode} (h : P s) : P (s.remove tag t mode) := by
  refine c.conclude (c.reply (c.runWork (c.startDeadline (c.drainQueue (c.mapTenant ?_ h)))))
  exact fun _ hv => { hv with pendingPolicy := fun _ e => by cases e }

theorem takeRemove (c : ClosedToCommands P) {s : State} {tag tenant mode} (h : P s) :
    P (s.takeRemove tag tenant mode) := by
  unfold State.takeRemove
  split
  · exact c.reply h
  · split
    · exact c.reply h
    · exact ite_keeps (c.reply h) (ite_keeps (c.remove h) (c.reply h))

/-- The visit of one lane by a flush, with the count of its references (R83). -/
theorem flushLane (c : ClosedToCommands P) {slot l} {r : State × Nat} (h : P r.1) : P (State.flushLane slot r l).1 := by
  have href : ∀ {q : State × Nat} {p}, P q.1 → P (State.refHalf slot q p).1 := fun {q p} hq => by
    unfold State.refHalf
    split
    · exact c.modHalf (f := fun v => { v with refs := v.refs ++ [slot] }) hq
    · exact hq
  exact href (href (c.padFilling h))

theorem flush (c : ClosedToCommands P) {s : State} {tag t} (h : P s) : P (s.flush tag t) := by
  have hvisits : ∀ (l : List Nat) (r : State × Nat), P r.1 → P (l.foldl (State.flushLane s.freeSlot) r).1 := by
    intro l
    induction l with
    | nil => exact fun r hr => hr
    | cons k rest ih => exact fun r hr => ih _ (c.flushLane hr)
  have hall := hvisits (s.lanesOf t) (s, 0) h
  exact ite_keeps (c.conclude (c.reply (c.runWork hall))) (c.conclude (c.records {} hall))

theorem takeFlush (c : ClosedToCommands P) {s : State} {tag tenant} (h : P s) : P (s.takeFlush tag tenant) :=
  ite_keeps (c.reply h) (ite_keeps (c.reply h) (ite_keeps (c.reply h) (ite_keeps (c.reply h) (c.flush h))))

theorem drainDeadline (c : ClosedToCommands P) {s t : State} {tenant} (e : execDrainDeadlineExpiry tenant s = .next t)
    (h : P s) : P t := by
  cases e
  exact ite_keeps (c.conclude (c.abortQueue h)) h

/-! ## Epochs -/

theorem applyPending (c : ClosedToCommands P) {s : State} {t} (h : P s) : P (s.applyPending t) := by
  unfold State.applyPending
  split
  · exact ite_keeps (c.applyRecord (c.applied ‹_› h)) h
  · exact h

theorem boundarySamples (c : ClosedToCommands P) {s : State} {t} (h : P s) : P (s.boundarySamples t) :=
  c.sample (ite_keeps h (c.sample h))

theorem boundaryTenant (c : ClosedToCommands P) {s : State} {t} (h : P s) : P (s.boundaryTenant t) := by
  have hrefill : P ((s.boundarySamples t).modTenant t (fun v => { v.refill with epochEvictions := 0 })) :=
    c.mapTenant (fun _ hv => hv.refilled) (c.boundarySamples h)
  unfold State.boundaryTenant
  dsimp only
  split
  · exact ite_keeps (c.raiseHead hrefill) hrefill
  · exact hrefill

theorem repetition (c : ClosedToCommands P) {s : State} {forced} (h : P s) : P (s.repetition forced) := by
  have hagain : P { s with scanCount := s.settings.scanRepetition } := c.records {} h
  exact ite_keeps (ite_keeps (c.scanTrigger hagain) hagain) (c.records {} h)

theorem boundary (c : ClosedToCommands P) {s : State} {forced quiet} (h : P s) : P (s.boundary forced quiet) := by
  have hnext : P { s with epoch := s.epoch + 1#32, epochTimer := some s.settings.epochLength } := c.records {} h
  have happly : P (State.applyAll { s with epoch := s.epoch + 1#32, epochTimer := some s.settings.epochLength }) :=
    ite_keeps hnext (foldl_closed (fun _ _ => c.applyPending) _ hnext)
  have hnotice : ∀ {q : State}, P q → P (q.epochNotice quiet) := fun hq => ite_keeps (c.posted hq) hq
  exact hnotice (c.repetition (c.aged (foldl_closed (fun _ _ => c.boundaryTenant) _ happly)))

theorem takeForceEpoch (c : ClosedToCommands P) {s : State} {tag quiet} (h : P s) : P (s.takeForceEpoch tag quiet) :=
  ite_keeps (c.conclude (c.reply (c.runWork (c.boundary h)))) (c.reply h)

theorem epochBoundary (c : ClosedToCommands P) {s t : State} (e : execEpochBoundary s = .next t) (h : P s) : P t := by
  cases e
  exact ite_keeps (c.conclude (c.boundary h)) h

/-! ## Starting and holding -/

theorem enterHolding (c : ClosedToCommands P) {s : State} (h : P s) : P s.enterHolding :=
  c.toClosedToLoss.enterHolding (c.records {} h)

theorem takeStart (c : ClosedToCommands P) {s : State} {tag} (h : P s) : P (s.takeStart tag) := by
  have hrun : P (s.startRunning.reply tag .ok) := c.reply (c.continuousScan (c.records {} h))
  exact ite_keeps (c.conclude (ite_keeps (c.enterHolding hrun) hrun)) (c.reply h)

theorem runAgain (c : ClosedToCommands P) {s : State} (h : P s) : P s.returnToRunning :=
  c.continuousScan (c.records {} h)

theorem takeResumeFromHold (c : ClosedToCommands P) {s : State} {tag} (h : P s) : P (s.takeResumeFromHold tag) := by
  unfold State.takeResumeFromHold
  split
  · exact ite_keeps (c.reply h) (c.reply (c.runAgain h))
  · exact c.reply h

theorem holdAsserted (c : ClosedToCommands P) {s t : State} (e : execHoldAsserted s = .next t) (h : P s) : P t := by
  have hlevel : P { s with holdLevel := true } := c.records {} h
  cases e
  exact ite_keeps (c.conclude (c.enterHolding hlevel)) hlevel

theorem holdDeasserted (c : ClosedToCommands P) {s t : State} (e : execHoldDeasserted s = .next t) (h : P s) : P t := by
  have hlevel : P { s with holdLevel := false } := c.records {} h
  cases e
  exact ite_keeps (c.runAgain hlevel) hlevel

/-! ## Writes -/

theorem acceptWrite (c : ClosedToCommands P) {s : State} {tag tenant hint flags writeTag sectors} (h : P s) :
    P (s.acceptWrite tag tenant hint flags writeTag sectors) := by
  have hqueue : ∀ {q : State} {f}, P q → P (q.appendFrame f) := fun {q f} hq => by
    have hq' : P { q with intake := q.intake ++ [f] } := c.records {} hq
    exact ite_keeps (c.raiseHead hq') hq'
  exact hqueue (ite_keeps (c.mapTenantCounters (fun _ hk => { hk with mapClamps := bump_le _ _ }) h) h)

theorem takeWrite (c : ClosedToCommands P) {s : State} {tag tenant hint flags writeTag count sectors} (h : P s) :
    P (s.takeWrite tag tenant hint flags writeTag count sectors) := by
  unfold State.takeWrite
  split
  · exact c.reply h
  · split
    · exact c.reply h
    · exact c.conclude (c.acceptWrite h)

theorem dropHead (c : ClosedToCommands P) {s : State} {t} (h : P s) : P (s.dropHead t) := c.records {} h

theorem acceptHead (c : ClosedToCommands P) {s : State} {t} (h : P s) : P (s.acceptHead t) := by
  unfold State.acceptHead
  split
  · exact h
  · refine c.raiseHead (c.dropHead (c.reply (c.mapStream ?_ (c.mapTenantCounters ?_ h))))
    · exact fun _ hv => { hv with accepted := bump_le _ _ }
    · exact fun _ hk => { hk with accepted := bump_le _ _ }

theorem stage (c : ClosedToCommands P) {s : State} {t f l k} (h : P s) : P (s.stage t f l k) := by
  have hput : ∀ g : Half → Half,
      P (((s.modHalf l k g).touchLane l).modHead t (fun e => { e with staged := f.staged + 1 })) :=
    fun g => c.records {} (c.modHalf (f := g) h)
  unfold State.stage
  dsimp only
  split <;> split
  · exact c.acceptHead (c.halfFull (hput _))
  · exact c.acceptHead (hput _)
  · exact c.halfFull (hput _)
  · exact hput _

theorem offer (c : ClosedToCommands P) {s : State} {t} (h : P s) : P (s.offer t) := by
  unfold State.offer
  split
  · exact h
  · split
    · split
      · unfold State.offerTo
        split
        · exact c.noSpaceReport h
        · split
          · exact c.stage h
          · exact c.headAt h
      · exact c.serveAgain h
    · exact h

theorem sectorOffer (c : ClosedToCommands P) {s t : State} {tenant} (e : execSectorOffer tenant s = .next t) (h : P s) :
    P t := by
  cases e
  exact c.conclude (c.offer h)

/-! ## Media reports -/

theorem staleReport (c : ClosedToCommands P) {s : State} (h : P s) : P s.staleReport :=
  c.posted (c.counted (fun _ hk => { hk with staleReports := bump_le _ _ }) h)

theorem sealUnit (c : ClosedToCommands P) {s : State} {u} (h : P s) : P (s.sealUnit u) := by
  refine c.records {} (c.mapUnit (f := UnitRec.sealedAt s.epoch) (fun r hr => ?_) h)
  unfold UnitRec.sealedAt
  split
  · exact ⟨hr.valid⟩
  · exact hr

theorem failUnit (c : ClosedToCommands P) {s : State} {u} (h : P s) : P (s.failUnit u) :=
  c.records {} (c.mapUnit (f := UnitRec.spoiled) (fun _ hr => ⟨hr.valid⟩) h)

theorem fillEntry (c : ClosedToCommands P) {s : State} {l k t x extents} (h : P s) : P (s.fillEntry l k t x extents) :=
  c.records {} h

theorem recordPlaced (c : ClosedToCommands P) {s : State} {l k t x u n} (h : P s) : P (s.recordPlaced l k t x u n) := by
  unfold State.recordPlaced
  dsimp only
  refine c.mapStream ?_ (c.mapTenantCounters ?_ (c.fillEntry (c.mapUnit ?_ h)))
  · exact fun _ hv => { hv with placed := bump_le _ _ }
  · exact fun _ hk => { hk with placed := bump_le _ _ }
  · exact fun _ hr => ⟨Nat.add_le_add_right hr.valid _⟩

theorem completeHalf (c : ClosedToCommands P) {s : State} {l k} (h : P s) : P (s.completeHalf l k) := by
  have hafter : ∀ {q : State}, P q → P (q.afterEmpty l k) := fun {q} hq => by
    unfold State.afterEmpty
    split
    · split
      · dsimp only
        split
        · exact c.raiseHead (c.modHalf hq)
        · exact c.modHalf hq
      · exact hq
    · exact c.closeIfDrained hq
  unfold State.completeHalf
  dsimp only
  split
  · exact hafter (c.emptyHalf (c.recordPlaced h))
  · exact hafter (c.emptyHalf h)

theorem programDone (c : ClosedToCommands P) {s : State} {d u l k mark} (h : P s) : P (s.programDone d u l k mark) := by
  have hrun : P ((s.completeHalf l k).runWork.modLane l (fun v => { v with failRun := 0 })) :=
    c.lane (c.runWork (c.completeHalf h))
  exact c.finishOrder (ite_keeps (c.sealUnit hrun) hrun)

theorem programLost (c : ClosedToCommands P) {s : State} {d u l k} (h : P s) : P (s.programLost d u l k) := by
  have htell : ∀ {q : State}, P q → P (q.tellLaneTenant l u) := fun {q} hq => by
    unfold State.tellLaneTenant
    split
    · exact c.posted hq
    · exact hq
  exact c.finishOrder (c.reissue (c.lane (htell (c.failUnit h))))

theorem freeSealing (c : ClosedToCommands P) {s : State} {u} (h : P s) : P (s.freeSealing u) := by
  unfold State.freeSealing
  split
  · exact c.freeLane h
  · exact h

theorem sealLost (c : ClosedToCommands P) {s : State} {d u} (h : P s) : P (s.sealLost d u) := by
  unfold State.sealLost
  dsimp only
  split
  · exact c.finishOrder (c.freeSealing (c.posted (c.failUnit h)))
  · exact c.finishOrder (c.freeSealing (c.failUnit h))

theorem countFail (c : ClosedToCommands P) {s : State} (h : P s) : P s.countFail :=
  c.counted (fun _ hk => { hk with programFails := bump_le _ _ }) h

theorem countTimeout (c : ClosedToCommands P) {s : State} (h : P s) : P s.countTimeout :=
  c.counted (fun _ hk => { hk with programTimeouts := bump_le _ _ }) h

theorem programDoneReport (c : ClosedToCommands P) {s t : State} {die seq unit}
    (e : execProgramDone die seq unit s = .next t) (h : P s) : P t := by
  cases e
  split
  · exact c.programDone h
  · exact c.staleReport h

theorem programFailReport (c : ClosedToCommands P) {s t : State} {die seq unit}
    (e : execProgramFail die seq unit s = .next t) (h : P s) : P t := by
  cases e
  split
  · exact c.programLost (c.countFail h)
  · exact c.staleReport h

theorem programTimeout (c : ClosedToCommands P) {s t : State} {die} (e : execProgramTimeout die s = .next t) (h : P s) :
    P t := by
  cases e
  split
  · exact c.programLost (c.countTimeout h)
  · exact h

theorem sealDoneReport (c : ClosedToCommands P) {s t : State} {die seq unit} (e : execSealDone die seq unit s = .next t)
    (h : P s) : P t := by
  cases e
  exact ite_keeps (c.finishOrder (c.freeSealing (c.sealUnit h))) (c.staleReport h)

theorem sealFailReport (c : ClosedToCommands P) {s t : State} {die seq unit} (e : execSealFail die seq unit s = .next t)
    (h : P s) : P t := by
  cases e
  exact ite_keeps (c.sealLost (c.countFail h)) (c.staleReport h)

theorem sealTimeout (c : ClosedToCommands P) {s t : State} {die} (e : execSealTimeout die s = .next t) (h : P s) :
    P t := by
  cases e
  split
  · exact c.sealLost (c.countTimeout h)
  · exact h

/-! ## Every command -/

/-- Every command keeps a property that is closed under what commands do. -/
theorem exec (c : ClosedToCommands P) {i : Instr} {s t : State} (e : exec i s = .next t) (h : P s) : P t := by
  cases i with
  | write => cases e; exact c.receive (fun _ _ => c.takeWrite) h
  | configure => cases e; exact c.control (fun _ _ => c.takeConfigure) h
  | start => cases e; exact c.control (fun _ _ => c.takeStart) h
  | declareUnits => cases e; exact c.control (fun _ _ => c.takeDeclare) h
  | supplyUnits => cases e; exact c.control (fun _ _ => c.takeSupply) h
  | releaseUnits => cases e; exact c.control (fun _ _ => c.takeRelease) h
  | invalidate => cases e; exact c.control (fun _ _ => c.takeInvalidate) h
  | reclaimUnit => cases e; exact c.control (fun _ _ => c.takeReclaim) h
  | admitTenant => cases e; exact c.control (fun hf _ => c.takeAdmit hf) h
  | setPolicy => cases e; exact c.control (fun hf _ => c.takeSetPolicy hf) h
  | cancelPending => cases e; exact c.control (fun _ _ => c.takeCancel) h
  | suspendTenant => cases e; exact c.control (fun _ _ => c.takeSuspend) h
  | resumeTenant => cases e; exact c.control (fun _ _ => c.takeResume) h
  | removeTenant => cases e; exact c.control (fun _ _ => c.takeRemove) h
  | flushTenant => cases e; exact c.control (fun _ _ => c.takeFlush) h
  | startScan => cases e; exact c.control (fun _ _ => c.takeStartScan) h
  | takeNomination => cases e; exact c.control (fun _ _ => c.takeNomination) h
  | forceEpoch => cases e; exact c.control (fun _ _ => c.takeForceEpoch) h
  | policyHold => cases e; exact c.control (fun _ _ => c.takePolicyHold) h
  | grantCredits => cases e; exact c.control (fun _ _ => c.takeGrant) h
  | query => cases e; exact c.control (fun _ _ => c.takeQuery) h
  | resumeFromHold => cases e; exact c.control (fun _ _ => c.takeResumeFromHold) h
  | deviceReset => cases e; exact c.receive (fun _ _ hq => c.records {} hq) h
  | deviceResetTakesEffect hold => cases e; exact ite_keeps (c.afterReset s hold) h
  | resetN hold => cases e; exact c.afterReset s hold
  | linkResync => cases e; exact ite_keeps h (c.records {} h)
  | resyncDelimiter => cases e; exact ite_keeps h (c.records {} h)
  | unassignedFrame => cases e; exact c.receive (fun _ _ => c.reply) h
  | frameDiscard => cases e; exact ite_keeps h (c.discardFrame (c.records {} h))
  | sendReply => exact c.sendReply e h
  | sendPlacementReport => exact c.sendPlacementReport e h
  | sendNotice => exact c.sendNotice e h
  | sectorOffer => exact c.sectorOffer e h
  | programDone => exact c.programDoneReport e h
  | mediaReportCorrupt => cases e; exact c.staleReport h
  | programFail => exact c.programFailReport e h
  | programTimeout => exact c.programTimeout e h
  | sealDone => exact c.sealDoneReport e h
  | sealFail => exact c.sealFailReport e h
  | sealTimeout => exact c.sealTimeout e h
  | epochBoundary => exact c.epochBoundary e h
  | scanVisit =>
    cases e
    split
    · exact c.visitNext h
    · exact h
  | drainDeadlineExpiry => exact c.drainDeadline e h
  | holdAsserted => exact c.holdAsserted e h
  | holdDeasserted => exact c.holdDeasserted e h

/-- So does every step. -/
theorem step (c : ClosedToCommands P) {s t : State} (e : step s = .next t) (h : P s) : P t := by
  unfold Machine.step at e
  split at e
  · cases e
    exact h
  · exact c.exec e (c.records {} h)

end ClosedToCommands

/-! ## The two invariants -/

theorem State.InRange.setUnit {s : State} (h : s.InRange) {u : Nat} {r : UnitRec} (hr : r.InRange) :
    (s.setUnit u r).InRange := by
  refine { h with units := fun n => ?_ }
  rw [setUnit_unit]
  split
  · exact hr
  · exact h.units n

theorem State.InRange.setStream {s : State} (h : s.InRange) {t x : Nat} {v : StreamCtx} (hv : v.InRange) :
    (s.setStream t x v).InRange := by
  refine { h with streams := fun n y => ?_ }
  rw [setStream_stream]
  split
  · exact hv
  · exact h.streams n y

/-- A boundary moves seal epochs alone, so no count of a unit (R127). -/
theorem State.InRange.ageUnits {s : State} (h : s.InRange) (e : BitVec 32) : (s.ageUnits e).InRange := by
  refine { h with units := fun n => ?_ }
  have hrow : (s.ageUnits e).unit n = ageUnit e (s.unit n) :=
    rowOf_map UnitRec.reset s.units (ageUnit e) (if_neg (by simp [UnitRec.reset])) n
  rw [hrow]
  unfold ageUnit
  split
  · exact ⟨(h.units n).valid⟩
  · exact h.units n

theorem Policy.reset_inRange : Policy.reset.InRange :=
  ⟨by decide, ⟨by decide, by decide⟩, by decide, by decide, by decide, by decide, by decide⟩

theorem State.reset_tenant (t : Nat) :
    State.reset.tenant t = { Tenant.reset with state := if t = 0 then .active else .vacant } := by
  by_cases h : t = 0
  · subst h
    rfl
  · simp [State.tenant, State.reset, rowOf, h, Ne.symm h, Tenant.reset]

theorem State.reset_inRange : State.reset.InRange where
  settings := ⟨by decide, by decide, by decide, by decide, by decide, by decide, by decide⟩
  tenants t := by
    rw [State.reset_tenant]
    exact ⟨Policy.reset_inRange, fun _ e => (by cases e), Nat.zero_le _, fun h => absurd rfl h,
      lt_max_of_lt_right Nat.zero_lt_one,
      TenantCounters.reset_inRange⟩
  counters := ⟨by decide, by decide, by decide, by decide, by decide, by decide, by decide, by decide, by decide⟩
  streams _ _ := ⟨Nat.zero_le _, Nat.zero_le _⟩
  units _ := ⟨Nat.le_refl _⟩

theorem State.reset_attentive : State.reset.Attentive := ⟨List.nodup_nil, by simp [State.reset, State.pendingSet]⟩

/-- The first source leaves the list as its pending set is emptied (R12). -/
theorem State.Attentive.noticeSent {s : State} (h : s.Attentive) {src : Nat} {rest : List Nat}
    (ha : s.attention = src :: rest) :
    ({ s with attention := rest, notices := putRow [] s.notices src [] } : State).Attentive := by
  have honce := h.once
  rw [ha, List.nodup_cons] at honce
  refine ⟨honce.2, fun n => ?_⟩
  show n ∈ rest ↔ rowOf [] (putRow [] s.notices src []) n ≠ []
  rw [rowOf_putRow]
  have hn := h.exactly n
  rw [ha, List.mem_cons] at hn
  by_cases e : n = src
  · subst e
    simpa using honce.1
  · rw [if_neg e]
    simpa [e, State.pendingSet] using hn

/-- Only a posting and the sending of a notice touch the attention list and the pending sets (R11, R12). -/
theorem attentive_closedToCommands : ClosedToCommands State.Attentive :=
  { closed_attentive with
    records := fun r h => h.of_same r.attention r.notices
    newSettings := fun _ h => h.of_same rfl rfl
    counted := fun _ h => h.of_same rfl rfl
    tenant := fun _ h => h.of_same rfl rfl
    applied := fun _ h => h.of_same rfl rfl
    stream := fun _ h => h.of_same rfl rfl
    unit := fun _ h => h.of_same rfl rfl
    lane := fun h => h.of_same rfl rfl
    aged := fun h => h.of_same rfl rfl
    posted := fun h => h.post _ _ _
    noticeSent := fun ha h => h.noticeSent ha
    reset := State.reset_attentive }

/-- Every record that a command writes is in its ranges. -/
theorem inRange_closedToCommands : ClosedToCommands State.InRange :=
  { closed_inRange with
    records := fun r h => h.of_same r.settings r.tenants r.counters r.streams r.units
    newSettings := fun hv h => { h with settings := hv }
    counted := fun hf h => { h with counters := hf _ h.counters }
    tenant := fun hv h => h.setTenant (hv (h.tenants _))
    applied := fun {s t p} hp h => by
      have hv := h.tenants t
      have hnone : (s.modTenant t (fun v => { v with pendingPolicy := none })).InRange :=
        h.setTenant { hv with pendingPolicy := fun _ e => by cases e }
      exact hnone.setTenant ((hnone.tenants t).under (hv.pendingPolicy p hp))
    stream := fun hv h => h.setStream (hv (h.streams _ _))
    unit := fun hr h => h.setUnit (hr (h.units _))
    lane := fun h => h.of_same rfl rfl rfl rfl rfl
    aged := fun h => h.ageUnits _
    posted := fun h => h.post _ _ _
    noticeSent := fun _ h => h.of_same rfl rfl rfl rfl rfl
    reset := State.reset_inRange }

/-- Settles O5: the attention list and the pending sets change together. -/
theorem attentionKept : Obligations.AttentionKept := fun _ _ h e => attentive_closedToCommands.step e h

/-- Settles O6: whatever a command writes of a record is in the record's ranges. -/
theorem rangesKept : Obligations.RangesKept := fun _ _ h e => inRange_closedToCommands.step e h

end Sys2Proof.Machine

/-! ## Frames taken and turned away -/

namespace Sys2Proof.Machine

theorem rxBlocked_iff (s : State) :
    s.rxBlocked = true ↔ s.resetWait ≠ none ∨ (96 ≤ s.replies.length ∧ s.receiving = none) := by
  simp [State.rxBlocked, Option.isSome_iff_ne_none]

/-- What a received command is: a frame that `receive` takes if it has the length its kind implies, or one of the three
that look at the receiver by themselves. -/
theorem exec_isReceived {c : Instr} (h : c.isReceived = true) :
    (∃ act, ∀ s, exec c s = .next (s.receive c.wellFormed act)) ∨ (∃ tag, c = .linkResync tag) ∨ c = .resyncDelimiter
      ∨ ∃ why, c = .frameDiscard why := by
  cases c with
  | linkResync tag => exact .inr (.inl ⟨tag, rfl⟩)
  | resyncDelimiter => exact .inr (.inr (.inl rfl))
  | frameDiscard why => exact .inr (.inr (.inr ⟨why, rfl⟩))
  | deviceResetTakesEffect | resetN | sendReply | sendPlacementReport | sendNotice | sectorOffer | programDone
  | mediaReportCorrupt | programFail | programTimeout | sealDone | sealFail | sealTimeout | epochBoundary | scanVisit
  | drainDeadlineExpiry | holdAsserted | holdDeasserted => cases h
  | _ => exact .inl ⟨_, fun _ => rfl⟩

/-- A control request is one that `control` takes (R6). -/
theorem exec_controlTag {c : Instr} {tag : BitVec 16} (h : c.controlTag = some tag) :
    ∃ act, ∀ s, exec c s = .next (s.control tag c.wellFormed act) := by
  cases c <;> cases h <;> exact ⟨_, fun _ => rfl⟩

theorem exec_blocked {c : Instr} {s : State} (hc : c.isReceived = true) (hb : s.rxBlocked = true) :
    exec c s = .next s := by
  obtain ⟨act, he⟩ | ⟨tag, rfl⟩ | rfl | ⟨why, rfl⟩ := exec_isReceived hc
  · rw [he, receive_blocked hb]
  all_goals exact congrArg Host.Outcome.next (if_pos hb)

theorem exec_unfit {c : Instr} {s : State} (hc : c.isReceived = true) (hs : s.takesFrames) (hw : c.wellFormed = false) :
    exec c s = .next s.noteRx.discardFrame := by
  obtain ⟨act, he⟩ | ⟨tag, rfl⟩ | rfl | ⟨why, rfl⟩ := exec_isReceived hc
  · rw [he, hw, receive_unfit hs]
  all_goals cases hw

/-- A discard for any reason but a start delimiter leaves the receiver looking for one (R1). -/
theorem exec_frameDiscard {s : State} (hb : s.rxBlocked = false) (why : DiscardReason) :
    exec (.frameDiscard why) s =
      .next ({ s with resyncArmed := false, receiving := receivingAfter why } : State).discardFrame :=
  congrArg Host.Outcome.next (if_neg (by rw [hb]; decide))

theorem exec_armed {c : Instr} {s : State} (hc : c.isReceived = true) (hb : s.rxBlocked = false)
    (ha : s.resyncArmed = true) (hl : ∀ tag, c ≠ .linkResync tag) (hr : c ≠ .resyncDelimiter)
    (hn : c ≠ .frameDiscard .newDelimiter) :
    exec c s = .next ({ s.noteRx with resyncArmed := false } : State).discardFrame := by
  obtain ⟨act, he⟩ | ⟨tag, rfl⟩ | rfl | ⟨why, rfl⟩ := exec_isReceived hc
  · rw [he, receive_armed hb ha]
  · exact absurd rfl (hl tag)
  · exact absurd rfl hr
  · have hw : receivingAfter why = none := if_neg (fun e => hn (by rw [e]))
    rw [exec_frameDiscard hb, hw]
    rfl

/-- A symbol at a receiver that is not blocked is what `nextSymbol` makes of it (log 31). -/
theorem takeSymbol_open {s : State} (hb : s.rxBlocked = false) (symbol : Symbol) :
    s.takeSymbol symbol =
      match nextSymbol s.receiving symbol with
      | .reading read => .next { s with receiving := read }
      | .ends c => exec c s := by
  unfold State.takeSymbol
  rw [hb]
  rfl

/-- Settles O9: the receiver's test comes before every received command. -/
theorem framesTurnedAway : Obligations.FramesTurnedAway := by
  refine ⟨rxBlocked_iff, fun c s => exec_blocked, fun symbol s => ⟨fun hb => if_pos hb, fun hb => ?_⟩,
    fun c s hc hb => ⟨fun ha hw => exec_unfit hc ⟨hb, ha⟩ hw, fun ha hl hr hn => exec_armed hc hb ha hl hr hn⟩⟩
  refine ⟨fun read hr => ?_, fun c he => ?_⟩
  · rw [takeSymbol_open hb, hr]
  · rw [takeSymbol_open hb, he]

/-- Settles O10: the slots are counted before any control request is looked at. -/
theorem controlSlotsHeld : Obligations.ControlSlotsHeld := by
  intro c tag s hc hw hs hf
  obtain ⟨act, he⟩ := exec_controlTag hc
  rw [he, hw, control_full hs hf]

/-- Settles O11, by what each of the four commands does at a receiver that is not blocked. -/
theorem framesWithoutASlot : Obligations.FramesWithoutASlot := by
  refine ⟨fun why s hb => ?_, fun tag s hs => ?_, fun tag s hb => ⟨?_, ?_⟩⟩
  · refine ⟨_, exec_frameDiscard hb why, ?_, ?_, ?_⟩
    · exact post_counters _ _ _ _
    · unfold State.discardFrame
      rw [post_counters]
      rfl
    · exact post_replies _ _ _ _
  · exact congrArg Host.Outcome.next (receive_taken hs _)
  · exact congrArg Host.Outcome.next (if_neg (by rw [hb]; decide))
  · exact congrArg Host.Outcome.next (if_neg (by rw [hb]; decide))

/-! ## Notices -/

/-- A kind that becomes pending is found once, as it was put in (R11). -/
theorem find_insertNotice_same (e : NoticeEntry) (l : List NoticeEntry)
    (h : ∀ x ∈ l, x.kind ≠ e.kind) : (insertNotice e l).find? (fun x => x.kind = e.kind) = some e := by
  induction l with
  | nil => simp [insertNotice]
  | cons x rest ih =>
    obtain ⟨hx, hrest⟩ := List.forall_mem_cons.mp h
    unfold insertNotice
    split
    · simp
    · simp [hx, ih hrest]

/-- A kind already pending is repeated where it stands (R11). -/
theorem find_repeatNotice_same (kind : NoticeKind) (d : BitVec 32) (l : List NoticeEntry) :
    (l.map (repeatNotice kind d)).find? (fun e => e.kind = kind) =
      (l.find? (fun e => e.kind = kind)).map (fun e => ⟨kind, min (e.repeats + 1) 255, d⟩) := by
  induction l with
  | nil => rfl
  | cons e rest ih =>
    by_cases h : e.kind = kind
    · simp [repeatNotice, h]
    · simp [repeatNotice, h, ih]

theorem any_kind_eq (l : List NoticeEntry) (kind : NoticeKind) :
    l.any (fun e => e.kind = kind) = (l.find? (fun e => e.kind = kind)).isSome := by
  rw [List.isSome_find?]

/-- The entry of the kind posted, after the posting (R11). -/
theorem post_pendingOf_same (s : State) (src : Nat) (kind : NoticeKind) (d : BitVec 32) :
    (s.post src kind d).pendingOf src kind =
      match s.pendingOf src kind with
      | none => some ⟨kind, 1, d⟩
      | some e => some ⟨kind, min (e.repeats + 1) 255, d⟩ := by
  unfold State.pendingOf
  rw [post_pendingSet, if_pos rfl, any_kind_eq]
  cases hp : (s.pendingSet src).find? (fun e => e.kind = kind) with
  | none => exact find_insertNotice_same ⟨kind, 1, d⟩ _ (by simpa using hp)
  | some e =>
    refine (find_repeatNotice_same kind d _).trans ?_
    rw [hp]
    rfl

/-- Settles O12: the posted kind by the two cases of R11, everything else by what a posting leaves alone. -/
theorem noticePosting : Obligations.NoticePosting := by
  intro s src kind d
  refine ⟨fun hn => ?_, fun e he => ?_, fun n k => post_pendingOf s src kind d n k, post_attention s src kind d, ?_⟩
  · rw [post_pendingOf_same, hn]
  · rw [post_pendingOf_same, he]
  · obtain ⟨n, a, e⟩ := post_eq s src kind d
    rw [e]

/-! ## The transmitter -/

/-- Settles O13, by the reply queue and the countdown of a DEVICE_RESET. -/
theorem oldestReplyIsSent : Obligations.OldestReplyIsSent := by
  intro s
  refine ⟨fun r rest hr hw => ?_, fun h => congrArg Host.Outcome.next ?_⟩
  · show execSendReply s = _
    unfold execSendReply
    simp [hr, hw]
  · rcases h with hr | hw
    · rw [hr]
    · split
      · rfl
      · exact if_pos hw

theorem arbiterOpen_iff (s : State) : s.arbiterOpen = true ↔ s.replies = [] ∧ 0 < s.credit ∧ s.resetWait = none := by
  simp [State.arbiterOpen, and_assoc]

/-- The arbiter is shut while a reply waits, without credit, and once a DEVICE_RESET has been taken (R7, R9, R15). -/
theorem arbiter_shut {s : State} (h : s.replies ≠ [] ∨ s.credit = 0 ∨ s.resetWait ≠ none) : s.arbiterOpen = false := by
  rw [← Bool.not_eq_true, arbiterOpen_iff]
  rintro ⟨hr, hc, hw⟩
  rcases h with h | h | h
  · exact h hr
  · omega
  · exact h hw

/-- Settles O15: the arbiter's test comes before either unsolicited frame. -/
theorem noticeSent : Obligations.NoticeSent := by
  refine ⟨fun s src rest ha hr hc hw hp => ⟨?_, rowOf_putRow_same _ _ _ _, fun n hn => rowOf_putRow_other _ _ _ hn⟩,
    fun s h => ?_⟩
  · have hopen := (arbiterOpen_iff s).mpr ⟨hr, hc, hw⟩
    show execSendNotice s = _
    unfold execSendNotice
    rcases hp with hp | hp <;> simp [ha, hopen, hp]
  · have hshut := arbiter_shut h
    refine ⟨congrArg Host.Outcome.next ?_, congrArg Host.Outcome.next ?_⟩
    · split
      · rw [if_neg (by simp [hshut])]
      · rfl
    · split
      · rw [if_neg (by simp [hshut])]
      · rfl

theorem wantsRoom_iff (s : State) (d : Nat) :
    s.wantsRoom d = true ↔
      s.eligible d = true ∧ ∃ l h rest, (s.die d).queue = .half l h :: rest ∧ s.hasReservation l h = false := by
  unfold State.wantsRoom
  rw [Bool.and_eq_true]
  refine and_congr_right fun _ => ?_
  rcases hq : (s.die d).queue with _ | ⟨⟨l, h⟩ | u, rest⟩ <;> simp [State.needsRoom]

/-- A dispatch of a half without a reservation reserves the tail of the placement queue (R104, R10). -/
theorem dispatch_reserves {s : State} {d l : Nat} {h : HalfId} {rest : List DieEntry}
    (hq : (s.die d).queue = .half l h :: rest) (hr : s.hasReservation l h = false) :
    (s.dispatch d).placement = s.placement ++ [.reserved l h] := by
  unfold State.dispatch
  rw [hq]
  simp [State.reserve, hr]

/-- The dies in the order in which room is granted (R107). -/
theorem grantRoom_find (s : State) (dies : List Nat)
    (hd : dies = (List.range 8).flatMap (fun i =>
      (List.range 8).map (fun j => 8 * ((s.groupPtr + i) % 8) + (rowOf 0 s.groupPos ((s.groupPtr + i) % 8) + j) % 8))) :
    s.grantRoom =
      match dies.find? s.wantsRoom with
      | some d => { s.dispatch d with groupPtr := (d / 8 + 1) % 8 }
      | none => s := by
  have hsame : ((List.range Config.groupCount).map (fun i => (s.groupPtr + i) % Config.groupCount)).flatMap s.circle =
      dies := by
    rw [hd, List.flatMap_map]
    rfl
  unfold State.grantRoom
  dsimp only
  rw [hsame]
  rfl

/-- Settles O14: the report by the arbiter's test, the room by the order in which `grantRoom` looks at the dies. -/
theorem placementReportIsSent : Obligations.PlacementReportIsSent := by
  refine ⟨fun s q t x extents rest hp hr hc hw hn hq => ?_, fun s dies hd => ⟨fun hf => ?_, fun d hf => ?_⟩,
    wantsRoom_iff⟩
  · have hopen := (arbiterOpen_iff s).mpr ⟨hr, hc, hw⟩
    have hchosen : (s.arbiterOpen && (!s.noticeWaits || s.preference = .placement)) = true := by
      rcases hn with hn | hn <;> simp [hopen, State.noticeWaits, hn]
    have hsent : s.sendHead t x extents rest = q := by
      rw [hq]
      by_cases ha : s.attention = [] <;> simp [State.sendHead, State.noticeWaits, ha]
    show execSendPlacementReport s = _
    unfold execSendPlacementReport
    rw [hp]
    dsimp only
    rw [if_pos hchosen, hsent]
  · rw [grantRoom_find s dies hd, hf]
  · have hgrant : s.grantRoom = { s.dispatch d with groupPtr := (d / 8 + 1) % 8 } := by
      rw [grantRoom_find s dies hd, hf]
    obtain ⟨-, l, h, rest, hq, hr⟩ := (wantsRoom_iff s d).mp (List.find?_some hf)
    refine ⟨hgrant, l, h, ?_, by rw [hq]; rfl⟩
    rw [hgrant]
    exact dispatch_reserves hq hr

end Sys2Proof.Machine

/-! ## Settings, credit and hold -/

namespace Sys2Proof.Machine

theorem triggerOf_high {b : BitVec 8} (h : 3 < b.toNat) : triggerOf b = none := by
  unfold triggerOf
  split <;> [omega; omega; omega; omega; rfl]

theorem triggerOf_low {b : BitVec 8} (h : b.toNat ≤ 3) :
    triggerOf b = some (if b.toNat = 0 then .none else if b.toNat = 1 then .epoch
      else if b.toNat = 2 then .supplyLow else .continuous) := by
  obtain e | e | e | e : b.toNat = 0 ∨ b.toNat = 1 ∨ b.toNat = 2 ∨ b.toNat = 3 := by omega
  all_goals simp [triggerOf, e]

theorem clampTo_zero (hi v : Nat) : clampTo 0 hi v = min v hi := Nat.zero_max _

theorem exec_configure {s : State} (h : s.takesControl) (tag : BitVec 16) (raw : RawSettings) :
    exec (.configure tag raw) s = .next (s.noteRx.takeConfigure tag raw) :=
  congrArg Host.Outcome.next (control_taken h tag _)

/-- Settles O16: CONFIG is looked at first, then the trigger code, and the other ten settings are clamped. -/
theorem configureReplacesSettings : Obligations.ConfigureReplacesSettings := by
  refine ⟨rfl, fun tag raw s hs => ?_⟩
  rw [exec_configure hs]
  refine ⟨fun hd => ?_, fun hd ht => ?_, fun hd ht => ?_⟩
  · exact congrArg Host.Outcome.next (if_neg hd)
  · simp [State.takeConfigure, hd, settingsOf, triggerOf_high ht]
  · obtain ⟨v, hv⟩ : ∃ v, settingsOf raw = some v := ⟨_, by rw [settingsOf, triggerOf_low ht, Option.map_some]⟩
    refine ⟨v, by simp [State.takeConfigure, hd, hv], ?_⟩
    rw [settingsOf, triggerOf_low ht, Option.map_some, Option.some.injEq] at hv
    subst hv
    exact ⟨rfl, rfl, clampTo_zero _ _, clampTo_zero _ _, rfl, clampTo_zero _ _, rfl, rfl, rfl, rfl, rfl⟩

theorem exec_grantCredits {s : State} (h : s.takesControl) (tag grant : BitVec 16) :
    exec (.grantCredits tag grant) s = .next (s.noteRx.takeGrant tag grant) :=
  congrArg Host.Outcome.next (control_taken h tag _)

theorem exec_policyHold {s : State} (h : s.takesControl) (tag : BitVec 16) (code : BitVec 8) :
    exec (.policyHold tag code) s = .next (s.noteRx.takePolicyHold tag code) :=
  congrArg Host.Outcome.next (control_taken h tag _)

/-- Settles O18, by the branches of the two requests. -/
theorem creditAndPolicyHold : Obligations.CreditAndPolicyHold := by
  refine ⟨fun tag grant s hs => ⟨fun h1 h2 => ?_, fun h => ?_⟩, rfl, fun tag code s hs => ?_⟩
  · rw [exec_grantCredits hs, State.takeGrant, if_neg (by simp; omega)]
    rfl
  · rw [exec_grantCredits hs, State.takeGrant, if_pos (by simpa using h)]
    rfl
  · rw [exec_policyHold hs]
    refine ⟨fun h => ?_, fun h => ?_, fun h => ?_⟩
    · simp [State.takePolicyHold, h]
    · simp [State.takePolicyHold, h]
    · unfold State.takePolicyHold
      split <;> [omega; omega; rfl]

/-! ## Queries -/

/-- A snapshot does not show the frame being received (R18). -/
theorem snapshotOf_noteRx (s : State) (target : QueryTarget) : s.noteRx.snapshotOf target = s.snapshotOf target := by
  cases target <;> rfl

theorem tenantIdOk_iff (t : BitVec 16) : tenantIdOk t = true ↔ t.toNat ≤ 1023 := by
  simp only [tenantIdOk, Config.tenantCount, decide_eq_true_eq]
  omega

theorem unitIdOk_iff (u : BitVec 16) : unitIdOk u = true ↔ u.toNat ≤ 32767 := by
  simp only [unitIdOk, Config.unitCount, decide_eq_true_eq]
  omega

/-- A target that names nothing, or an id out of range, has no snapshot (R17). -/
theorem snapshotOf_none {s : State} {target : QueryTarget}
    (h : (∃ a, target = .unassigned a) ∨ (∃ t, target = .tenant t ∧ 1023 < t.toNat)
        ∨ (∃ t x, target = .stream t x ∧ (1023 < t.toNat ∨ 7 < x.toNat))
        ∨ (∃ l, target = .lane l ∧ 127 < l.toNat) ∨ (∃ u, target = .unit u ∧ 32767 < u.toNat)) :
    s.snapshotOf target = none := by
  rcases h with ⟨a, rfl⟩ | ⟨t, rfl, h⟩ | ⟨t, x, rfl, h⟩ | ⟨l, rfl, h⟩ | ⟨u, rfl, h⟩
  · rfl
  · exact if_neg (by rw [tenantIdOk_iff]; omega)
  · refine if_neg ?_
    simp only [Bool.and_eq_true, tenantIdOk_iff, Config.streamCount, decide_eq_true_eq]
    omega
  · exact if_neg (Nat.not_lt.mpr h)
  · exact if_neg (by rw [unitIdOk_iff]; omega)

/-- Any other target has its snapshot (R17). -/
theorem snapshotOf_some {s : State} {target : QueryTarget} {r : Snapshot}
    (h : (target = .device ∧ r = .device s.deviceSnapshot)
      ∨ (∃ t, target = .tenant t ∧ t.toNat ≤ 1023 ∧ r = .tenant (s.tenantSnapshot t.toNat))
      ∨ (∃ t x, target = .stream t x ∧ t.toNat ≤ 1023 ∧ x.toNat ≤ 7 ∧ r = .stream (s.stream t.toNat x.toNat))
      ∨ (∃ l, target = .lane l ∧ l.toNat ≤ 127 ∧ r = .lane (s.laneSnapshot l.toNat))
      ∨ (∃ u, target = .unit u ∧ u.toNat ≤ 32767 ∧ r = .unit (s.unitSnapshot u.toNat))
      ∨ (target = .pools ∧ r = .pools s.poolsSnapshot)
      ∨ (target = .nominations ∧ r = .nominations (s.nominations.map Nomination.entry))) :
    s.snapshotOf target = some r := by
  rcases h with ⟨rfl, rfl⟩ | ⟨t, rfl, ht, rfl⟩ | ⟨t, x, rfl, ht, hx, rfl⟩ | ⟨l, rfl, hl, rfl⟩ | ⟨u, rfl, hu, rfl⟩
    | ⟨rfl, rfl⟩ | ⟨rfl, rfl⟩
  · rfl
  · exact if_pos ((tenantIdOk_iff t).mpr ht)
  · refine if_pos ?_
    simp only [Bool.and_eq_true, tenantIdOk_iff, Config.streamCount, decide_eq_true_eq]
    omega
  · exact if_pos (Nat.lt_succ_of_le hl)
  · exact if_pos ((unitIdOk_iff u).mpr hu)
  · rfl
  · rfl

theorem exec_query {s : State} (h : s.takesControl) (tag : BitVec 16) (target : QueryTarget) (clear : BitVec 8) :
    exec (.query tag target clear) s =
      .next (match s.snapshotOf target with
        | some r => (if flagOf clear then s.noteRx.clearCounters target else s.noteRx).reply tag .ok (.snapshot r)
        | none => s.noteRx.reply tag .badRequest) := by
  rw [← snapshotOf_noteRx]
  exact congrArg Host.Outcome.next (control_taken h tag _)

theorem sum_filter_two_pow_lt (p : Nat → Bool) (n : Nat) :
    (((List.range n).filter p).map (fun g => 2 ^ g)).sum < 2 ^ n := by
  induction n with
  | zero => simp
  | succ n ih =>
    rw [List.range_succ, List.filter_append, List.map_append, List.sum_append, Nat.pow_succ]
    cases h : p n <;> simp [h] <;> omega

/-- A sum of distinct powers of two, by its bits: the pools below low water as a mask (R96). -/
theorem testBit_sum_filter_two_pow (p : Nat → Bool) {n g : Nat} (hg : g < n) :
    (((List.range n).filter p).map (fun g => 2 ^ g)).sum.testBit g = p g := by
  induction n with
  | zero => omega
  | succ n ih =>
    have hlt := sum_filter_two_pow_lt p n
    rw [List.range_succ, List.filter_append, List.map_append, List.sum_append]
    rcases Nat.lt_succ_iff_lt_or_eq.mp hg with h | rfl
    · cases hp : p n
      · simpa [hp] using ih h
      · simp [hp, Nat.add_comm _ (2 ^ n), Nat.testBit_two_pow_add_gt h, ih h]
    · cases hp : p g
      · simp [hp, Nat.testBit_lt_two_pow hlt]
      · simp [hp, Nat.add_comm _ (2 ^ g), Nat.testBit_two_pow_add_eq, Nat.testBit_lt_two_pow hlt]

theorem lowMask_getLsbD (s : State) {g : Nat} (hg : g < 8) :
    s.lowMask.getLsbD g = decide ((s.pool g).length < s.settings.lowWater) := by
  unfold State.lowMask allGroups
  rw [BitVec.getLsbD_ofNat, decide_eq_true hg, Bool.true_and]
  exact testBit_sum_filter_two_pow (fun g => decide ((s.pool g).length < s.settings.lowWater)) hg

/-- Settles O19: a target has a snapshot or none, and the snapshot is read before the counters are cleared. -/
theorem queryAnswersWithASnapshot : Obligations.QueryAnswersWithASnapshot := by
  refine ⟨fun tag target clear s hs => ⟨fun h => ?_, fun r h => ⟨fun hc => ?_, fun hc => ?_⟩⟩, fun s ready h => ?_,
    fun s t => rfl, fun s l half h => ?_, fun s u => rfl, fun s => ⟨rfl, rfl, fun g => lowMask_getLsbD s⟩⟩
  · rw [exec_query hs, snapshotOf_none h]
  · rw [exec_query hs, snapshotOf_some h]
    simp [flagOf, hc]
  · rw [exec_query hs, snapshotOf_some h]
    cases target <;> simp [flagOf, hc] <;> rfl
  · subst h
    rfl
  · simp only [h, State.laneSnapshot, State.position, List.contains_iff_mem]
    rfl

/-! ## Lists of units -/

theorem listOk_iff (count : BitVec 8) : listOk count = true ↔ 1 ≤ count.toNat ∧ count.toNat ≤ 64 := by
  simp [listOk]

/-- A list request whose length fits is taken like any other control request. -/
theorem next_control {s t : State} {fits : Bool} {tag : BitVec 16} {act : State → State} (h : s.takesControl)
    (hf : fits = true) (ha : act s.noteRx = t) :
    (.next (s.control tag fits act) : Host.Outcome State Fault Refusal) = .next t := by
  rw [hf, control_taken h, ha]

/-- The entries of a SUPPLY_UNITS are handled before what the service of the unit wait queue brings about (R87, R95). -/
theorem supply_keeps (s : State) (ids : List (BitVec 16)) :
    WorkKeeps (handleEntries supplyOne ids s).1 (s.supply ids).1 :=
  ite_keeps (P := WorkKeeps (handleEntries supplyOne ids s).1)
    ((closed_workKeeps _).toClosed.runWork ((closed_workKeeps _).toClosed.raiseService (.refl _))) (.refl _)

/-- Settles O30: the count, then the device state, then the entries; SUPPLY_UNITS alone goes on to the internal events. -/
theorem listRequests : Obligations.ListRequests := by
  refine ⟨fun ε one s => ⟨rfl, fun e rest => rfl⟩, fun tag force count declared ids lowered s hs hd hi hl =>
    ⟨fun hc => ?_, fun h1 h2 => ?_⟩⟩
  · have hbad : (!listOk count) = true := by
      rw [Bool.not_eq_true', ← Bool.not_eq_true, listOk_iff]
      omega
    exact ⟨next_control hs hd (if_pos hbad), next_control hs hi (if_pos hbad), next_control hs hi (if_pos hbad),
      next_control hs hl (if_pos hbad)⟩
  · have hok : ¬(!listOk count) = true := by rw [(listOk_iff count).mpr ⟨h1, h2⟩]; decide
    refine ⟨fun hv => ?_, fun hv => ?_, fun hv => ⟨?_, ?_⟩, fun hv => ⟨?_, ?_⟩, ?_⟩
    · exact next_control hs hd ((if_neg hok).trans (if_neg hv))
    · exact next_control hs hd ((if_neg hok).trans (if_pos hv))
    · exact next_control hs hi ((if_neg hok).trans (if_pos hv))
    · exact next_control hs hi ((if_neg hok).trans (if_pos hv))
    · refine ⟨_, next_control hs hi ((if_neg hok).trans (if_neg hv)), ?_, mem_reply_conclude _ _ _ _⟩
      exact ((supply_keeps s.noteRx ids).trans (.reply _ _ _ _)).trans (conclude_keeps _)
    · exact next_control hs hi ((if_neg hok).trans (if_neg hv))
    · exact next_control hs hl (if_neg hok)

/-! ## Writes -/

theorem exec_write {s : State} (hs : s.takesFrames) {count : BitVec 8} {sectors : List Sector}
    (hf : sectorsFit count sectors.length = true) (tag tenant : BitVec 16) (hint flags : BitVec 8) (writeTag : BitVec 32) :
    exec (.write tag tenant hint flags writeTag count sectors) s =
      .next (s.noteRx.takeWrite tag tenant hint flags writeTag count sectors) := by
  show Host.Outcome.next (s.receive (sectorsFit count sectors.length) _) = _
  rw [hf, receive_taken hs]

/-- A WRITE that finds a slot and is refused at arrival is answered with the status alone (R41). -/
theorem takeWrite_refused {s : State} {status : Status} {count : BitVec 8} {tenant : BitVec 16}
    (hi : s.intake.length < 64) (hr : s.arrivalRefusal tenant count = some status) (tag : BitVec 16)
    (hint flags : BitVec 8) (writeTag : BitVec 32) (sectors : List Sector) :
    s.takeWrite tag tenant hint flags writeTag count sectors = s.reply tag status := by
  unfold State.takeWrite
  rw [if_neg (Nat.not_le.mpr hi), hr]

theorem arrivalRefusal_badRequest (s : State) {tenant : BitVec 16} {count : BitVec 8}
    (h : 1023 < tenant.toNat ∨ count.toNat = 0 ∨ 16 < count.toNat) :
    s.arrivalRefusal tenant count = some .badRequest := by
  refine if_pos ?_
  simp only [Bool.or_eq_true, Bool.not_eq_true', ← Bool.not_eq_true, tenantIdOk_iff, Config.stripeSlots,
    decide_eq_true_eq]
  omega

/-- A WRITE with good operands is refused by the device state or the tenant state (R41). -/
theorem arrivalRefusal_of_operands (s : State) {tenant : BitVec 16} {count : BitVec 8} (ht : tenant.toNat ≤ 1023)
    (h1 : 1 ≤ count.toNat) (h2 : count.toNat ≤ 16) :
    s.arrivalRefusal tenant count =
      match s.device with
      | .config => some .wrongState
      | .holding => some .holdAbort
      | .held => some .holdAbort
      | .running => if (s.tenant tenant.toNat).isServed then none else some .tenantState := by
  refine (if_neg ?_).trans rfl
  simp only [Bool.or_eq_true, Bool.not_eq_true', ← Bool.not_eq_true, tenantIdOk_iff, Config.stripeSlots,
    decide_eq_true_eq]
  omega

/-- Settles O50: the slot, then the operands, then the device state, then the tenant state. -/
theorem writeRefusals : Obligations.WriteRefusals := by
  intro tag tenant hint flags writeTag count sectors s hs hf
  rw [exec_write hs hf]
  refine ⟨fun hi => congrArg Host.Outcome.next (if_pos hi), fun hi => ⟨fun hb => ?_, fun ht h1 h2 => ?_⟩⟩
  · rw [takeWrite_refused (s := s.noteRx) hi (arrivalRefusal_badRequest _ hb)]
  · have hr := arrivalRefusal_of_operands s.noteRx ht h1 h2
    rw [noteRx_device] at hr
    refine ⟨fun hd => ?_, fun hd => ?_, fun hd hv => ?_⟩
    · rw [hd] at hr
      rw [takeWrite_refused (s := s.noteRx) hi hr]
    · rcases hd with hd | hd <;> rw [hd] at hr <;> rw [takeWrite_refused (s := s.noteRx) hi hr]
    · have hserved : (s.tenant tenant.toNat).isServed = false := by
        rcases hv with hv | hv | hv <;> simp [Tenant.isServed, hv]
      rw [hd] at hr
      simp only [noteRx_tenant, hserved] at hr
      rw [takeWrite_refused (s := s.noteRx) hi hr]

/-! ## Resets -/

theorem afterReset_tenant (s : State) (hold : Bool) (t : Nat) :
    (s.afterReset hold).tenant t = { Tenant.reset with state := if t = 0 then .active else .vacant } :=
  State.reset_tenant t

/-- What both resets leave (R15, R16). -/
theorem afterReset_spec (s : State) (hold : Bool) : (s.afterReset hold).AfterReset hold where
  device := rfl
  settings := rfl
  slots := ⟨rfl, rfl⟩
  replies := ⟨rfl, rfl, rfl, rfl, rfl⟩
  reports := ⟨rfl, rfl, rfl⟩
  notices := ⟨rfl, fun _ => rfl⟩
  counters := rfl
  drive := rfl
  vacant t ht := by rw [afterReset_tenant, if_neg ht]
  contexts t := by
    rw [afterReset_tenant]
    exact ⟨rfl, rfl, rfl, rfl, rfl, rfl, rfl, rfl, rfl⟩
  streams _ _ := rfl
  lanes _ := rfl
  lists := ⟨rfl, rfl, rfl, rfl, rfl⟩
  pools _ := rfl
  dies _ := rfl
  units _ := rfl
  scanner := ⟨rfl, rfl, rfl⟩
  epochs := ⟨rfl, rfl, rfl, rfl⟩
  hold := ⟨rfl, rfl⟩
  media := ⟨rfl, rfl, fun _ => rfl⟩
  work := rfl

/-- Settles O8: both resets end in `afterReset`, and a DEVICE_RESET counts the replies up to its own. -/
theorem resetsRestoreEveryBlock : Obligations.ResetsRestoreEveryBlock := by
  refine ⟨fun hold s => ⟨_, rfl, afterReset_spec s hold, rfl⟩, fun tag s hs => ⟨?_, rfl⟩,
    fun hold s => ⟨fun hw => ⟨_, congrArg Host.Outcome.next (if_pos hw), afterReset_spec s hold, rfl⟩,
      fun hw => congrArg Host.Outcome.next (if_neg hw)⟩⟩
  refine congrArg Host.Outcome.next ((receive_taken hs _).trans ?_)
  simp [State.takeDeviceReset, reply_replies]

theorem State.reset_bounded : State.reset.Bounded State.reset.room :=
  ⟨by decide, by decide, by decide, by decide, by decide, by decide, by decide⟩

theorem State.reset_canonical : State.reset.Canonical :=
  ⟨by decide, by decide, by decide, by decide, by decide, by decide, by decide, by decide⟩

theorem State.reset_coherent : State.reset.Coherent where
  recencyOnce := List.nodup_nil
  recency l := ⟨fun h => absurd h List.not_mem_nil, fun h => (by cases h)⟩
  named l h := absurd rfl h
  bound t := by rw [State.reset_tenant]; rfl
  laneWaitOnce := List.nodup_nil
  waiting t x h := by cases h
  unitWaitOnce := List.nodup_nil
  unitWait l h := by cases h
  pools u g := (if_neg (fun h => by cases h.1)).symm
  parked := rfl
  owned t := by rw [State.reset_tenant]; rfl
  floors := by decide

theorem State.reset_linked : State.reset.Linked where
  config _ := ⟨rfl, rfl, rfl, rfl, fun _ _ => rfl⟩
  intake _ := rfl
  frames f h := absurd h List.not_mem_nil
  laneWait t x h := absurd h List.not_mem_nil
  boundLane l t x h := by cases h
  boundStream t x l _ h := by cases h
  laneOwner l t x h := by cases h
  quota _ t := by rw [State.reset_tenant]; exact Nat.zero_le _
  inFlight g := Nat.zero_le _

theorem State.reset_half (l : Nat) (h : HalfId) : State.reset.half l h = Half.reset := by cases h <;> rfl

theorem State.reset_not_sealAsked (u : Nat) : ¬State.reset.sealAsked u := by
  rintro (h | h) <;> cases h

theorem State.reset_placed : State.reset.Placed where
  halves l h := by rw [State.reset_half]; exact Half.formed_reset
  filling l := ⟨fun h => (by cases h.1), fun h => (by cases h)⟩
  free l _ := ⟨rfl, rfl, rfl⟩
  current l u n h := by cases h
  currentOnce l k u n m h := by cases h
  assigned l h u n e := by rw [State.reset_half] at e; cases e
  assignedOnce l h k j u n m e := by rw [State.reset_half] at e; cases e
  orders d o h := by cases h
  programming l h u n e := by rw [State.reset_half] at e; cases e
  queues d := ⟨List.nodup_nil, fun l h e => absurd e List.not_mem_nil, fun u e => absurd e List.not_mem_nil⟩
  full l h u n e := by rw [State.reset_half] at e; cases e
  rising d u := by rw [State.stripesOn_idle rfl rfl]; exact List.Pairwise.nil
  parked t x u n _ h := by cases h
  sealing u h := absurd h (State.reset_not_sealAsked u)
  unused u h := by cases h
  programmed u := ⟨Nat.zero_le _, Nat.zero_le _, fun l => Nat.le_of_eq (by
    show 0 + 16 * Lane.reset.assignedTo u = 0
    rw [Lane.assignedTo_reset])⟩
  unitWait l h := absurd h List.not_mem_nil
  waiting l h := absurd rfl h
  padded h := by cases h
  noUnit _ l h := by cases h

/-- Settles O7: the reset state is what a reset leaves of itself, and it holds nothing that an invariant could fail on. -/
theorem resetStateHolds : Obligations.ResetStateHolds :=
  ⟨⟨afterReset_spec State.reset false, rfl⟩, State.reset_bounded, State.reset_canonical, State.reset_attentive,
    State.reset_inRange, State.reset_coherent, State.reset_linked, State.reset_placed⟩

end Sys2Proof.Machine

/-! ## No scan starts in a hold

`Closed` allows any scan under the trigger SUPPLY_LOW, whatever the device state, so it does not tell that none starts in
HOLDING or HELD (R143, R148). The lemmas here follow the internal events once more for that alone: they all leave the device
state, the HOLD level and the scan as they are, or raise a trigger, which is ignored and counted. -/

namespace Sys2Proof.Machine

/-- The part is in HOLDING or HELD with the HOLD level asserted, and no scan runs. -/
def State.Unscanned (s : State) : Prop := (s.device = .holding ∨ s.device = .held) ∧ s.holdLevel = true ∧ s.scan = none

theorem endFrames_only (s : State) (p : Frame → Bool) (status : Frame → Status) (order : List Frame → List Frame) :
    ∃ t r, s.endFrames p status order =
      { s with tenants := t, intake := s.intake.filter (fun f => !p f), replies := r } := by
  obtain ⟨t, ht⟩ := Closed.refundAll_leaves (order (s.intake.filter p)) s
  rw [endFrames_eq, Closed.refundAll_intake, ht]
  exact ⟨_, _, rfl⟩

theorem holdStart_only (s : State) :
    ∃ t, s.holdStart = { s with tenants := t, device := .holding, lost := 0, epochTimer := none } := by
  unfold State.holdStart
  refine foldl_closed (P := fun q => ∃ t, q = { s with tenants := t, device := .holding, lost := 0, epochTimer := none })
    (fun q n hq => ?_) _ ⟨s.tenants, rfl⟩
  obtain ⟨t, rfl⟩ := hq
  unfold State.stopTimer
  split <;> exact ⟨_, rfl⟩

namespace State.Unscanned

variable {s : State}

theorem modTenant (h : s.Unscanned) {t f} : (s.modTenant t f).Unscanned := h
theorem modTenantCounters (h : s.Unscanned) {t f} : (s.modTenantCounters t f).Unscanned := h
theorem modStream (h : s.Unscanned) {t x f} : (s.modStream t x f).Unscanned := h
theorem modLane (h : s.Unscanned) {l f} : (s.modLane l f).Unscanned := h
theorem modHalf (h : s.Unscanned) {l k f} : (s.modHalf l k f).Unscanned := h
theorem modUnit (h : s.Unscanned) {u f} : (s.modUnit u f).Unscanned := h
theorem modDie (h : s.Unscanned) {d f} : (s.modDie d f).Unscanned := h
theorem setPool (h : s.Unscanned) {g v} : (s.setPool g v).Unscanned := h
theorem raiseHead (h : s.Unscanned) {t} : (s.raiseHead t).Unscanned := h
theorem raiseCheck (h : s.Unscanned) : s.raiseCheck.Unscanned := h
theorem withWork (h : s.Unscanned) {w} : ({ s with work := w } : State).Unscanned := h
theorem withParked (h : s.Unscanned) {n} : ({ s with parked := n } : State).Unscanned := h
theorem withRecency (h : s.Unscanned) {l} : ({ s with recency := l } : State).Unscanned := h
theorem withLaneWait (h : s.Unscanned) {l} : ({ s with laneWait := l } : State).Unscanned := h
theorem withUnitWait (h : s.Unscanned) {l} : ({ s with unitWait := l } : State).Unscanned := h

theorem withLists (h : s.Unscanned) {r u} : ({ s with recency := r, unitWait := u } : State).Unscanned := h
theorem withoutWaiting (h : s.Unscanned) : ({ s with laneWait := [], unitWait := [] } : State).Unscanned := h

theorem foldl (h : s.Unscanned) {α : Type} {f : State → α → State} (hf : ∀ q a, q.Unscanned → (f q a).Unscanned)
    (l : List α) : (l.foldl f s).Unscanned := foldl_closed hf l h

theorem not_running (h : s.Unscanned) : s.device ≠ .running ∧ s.device ≠ .config := by
  obtain ⟨hd | hd, -⟩ := h <;> rw [hd] <;> decide

/-- A trigger in HOLDING or HELD is ignored (R143). -/
theorem scanTrigger (h : s.Unscanned) : s.scanTrigger.Unscanned := by
  obtain ⟨hr, hc⟩ := h.not_running
  unfold State.scanTrigger
  rw [if_neg (by simp [hr, hc])]
  exact h

theorem post (h : s.Unscanned) {src kind d} : (s.post src kind d).Unscanned := by
  obtain ⟨n, a, e⟩ := post_eq s src kind d
  rw [e]
  exact h

theorem lowWaterCheck (h : s.Unscanned) {g} : (s.lowWaterCheck g).Unscanned :=
  ite_keeps (ite_keeps h.post.scanTrigger h.post) h

/-! ### Media -/

theorem dispatch (h : s.Unscanned) {d} : (s.dispatch d).Unscanned := by
  obtain ⟨_, _, _, _, _, _, e⟩ := dispatch_eq s d
  rw [e]
  exact h

theorem joinDie (h : s.Unscanned) {d e} : (s.joinDie d e).Unscanned := ite_keeps h.modDie.dispatch h.modDie

theorem requestSeal (h : s.Unscanned) {u} : (s.requestSeal u).Unscanned := ite_keeps h h.joinDie

theorem grantRoom (h : s.Unscanned) : s.grantRoom.Unscanned := by
  obtain ⟨_, _, _, _, _, _, _, e⟩ := grantRoom_eq s
  rw [e]
  exact h

/-! ### Supply -/

theorem endFrames (h : s.Unscanned) {p status order} : (s.endFrames p status order).Unscanned := by
  obtain ⟨_, _, e⟩ := endFrames_only s p status order
  rw [e]
  exact h

theorem noSpaceReport (h : s.Unscanned) {t x} : (s.noSpaceReport t x).Unscanned :=
  h.endFrames.modTenantCounters.post.raiseHead

theorem leaveUnitWait (h : s.Unscanned) {l} : (s.leaveUnitWait l).Unscanned := ite_keeps h.withUnitWait.withWork h

theorem joinUnitWait (h : s.Unscanned) {l} : (s.joinUnitWait l).Unscanned := ite_keeps h h.withUnitWait

theorem giveUnit (h : s.Unscanned) {l u n} : (s.giveUnit l u n).Unscanned :=
  ite_keeps h.modLane.raiseCheck h.modLane

theorem resumeParked (h : s.Unscanned) {l t x u n} : (s.resumeParked l t x u n).Unscanned :=
  h.modUnit.modStream.withParked.giveUnit

theorem drawUnit (h : s.Unscanned) {g l t x} : (s.drawUnit g l t x).Unscanned := by
  unfold State.drawUnit
  split
  · exact h
  · exact h.setPool.modUnit.modTenant.giveUnit.lowWaterCheck

theorem dropEmptyFilling (h : s.Unscanned) {l} : (s.dropEmptyFilling l).Unscanned := by
  unfold State.dropEmptyFilling
  split
  · exact ite_keeps h.modHalf h
  · exact h

theorem noUnitFound (h : s.Unscanned) {l t x} : (s.noUnitFound l t x).Unscanned :=
  ite_keeps h (ite_keeps
    (ite_keeps h.dropEmptyFilling.modLane.joinUnitWait.noSpaceReport h.modLane.joinUnitWait) h.joinUnitWait)

theorem takeUnit (h : s.Unscanned) {l} : (s.takeUnit l).Unscanned := by
  unfold State.takeUnit
  split
  · exact h
  · rename_i t x _
    have hpools : State.Unscanned (match s.choosePool (s.tenant t).active.poolMask (s.askPolicy l t) with
        | some g => (s.drawUnit g l t x).leaveUnitWait l
        | none => s.noUnitFound l t x) := by
      split
      · exact h.drawUnit.leaveUnitWait
      · exact h.noUnitFound
    dsimp only
    split
    · exact ite_keeps h.resumeParked.leaveUnitWait hpools
    · exact hpools

/-! ### Lanes -/

theorem refillOther (h : s.Unscanned) {l k} : (s.refillOther l k).Unscanned := ite_keeps h.modHalf h

theorem assignHalf (h : s.Unscanned) {l k u n} : (s.assignHalf l k u n).Unscanned :=
  h.modHalf.modLane.modUnit.joinDie

theorem halfFull (h : s.Unscanned) {l k closing} : (s.halfFull l k closing).Unscanned := by
  unfold State.halfFull
  dsimp only
  split
  · refine ite_keeps (takeUnit ?_) ?_ <;> exact ite_keeps h.modHalf.assignHalf h.modHalf.assignHalf.refillOther
  · refine ite_keeps ?_ (refillOther ?_) <;> exact ite_keeps h.modHalf.modLane h.modHalf

theorem markFirst (h : s.Unscanned) {l k} : (s.markFirst l k).Unscanned := ite_keeps h.modLane h

theorem assignInTurn {l halves ask} (h : s.Unscanned) : (assignInTurn l halves ask s).Unscanned := by
  induction halves generalizing s ask with
  | nil => exact h
  | cons k rest ih =>
    have hask : State.Unscanned (if (s.lane l).current.isNone && ask then s.takeUnit l else s) := ite_keeps h.takeUnit h
    unfold Machine.assignInTurn
    exact ite_keeps (ih hask.halfFull) hask.markFirst

theorem padFilling (h : s.Unscanned) {l closing} : (s.padFilling l closing).Unscanned := by
  have hpad : ∀ {k}, (s.padHalf l k closing).Unscanned := fun {k} => by
    unfold State.padHalf
    dsimp only
    split
    · exact h.modHalf.modTenantCounters.halfFull
    · exact h.modHalf.halfFull
  unfold State.padFilling
  split
  · exact ite_keeps hpad h
  · exact h

theorem freeLane (h : s.Unscanned) {l} : (s.freeLane l).Unscanned := ite_keeps h.modLane.withWork h.modLane

theorem park (h : s.Unscanned) {t x u n} : (s.park t x u n).Unscanned := by
  unfold State.park
  dsimp only
  split
  · exact h.modUnit.modStream.withParked.requestSeal
  · exact h.modUnit.modStream.withParked

theorem closingComplete (h : s.Unscanned) {l} : (s.closingComplete l).Unscanned := by
  unfold State.closingComplete
  split
  · exact ite_keeps h.requestSeal (ite_keeps h.park.freeLane h.requestSeal)
  · exact h.freeLane

theorem closeIfDrained (h : s.Unscanned) {l} : (s.closeIfDrained l).Unscanned := ite_keeps h.closingComplete h

theorem detach (h : s.Unscanned) {l t x} : (s.detach l t x).Unscanned :=
  h.padFilling.dropEmptyFilling.modStream.modLane.withRecency.modTenant

theorem evict (h : s.Unscanned) {l} : (s.evict l).Unscanned := by
  unfold State.evict
  split
  · exact h
  · dsimp only
    split
    · exact h.detach.modTenant.leaveUnitWait.closeIfDrained.raiseHead
    · exact h.detach.modTenant.closeIfDrained.raiseHead

theorem closeFinally (h : s.Unscanned) {l} : (s.closeFinally l).Unscanned := by
  unfold State.closeFinally
  split
  · exact h
  · exact h.detach.leaveUnitWait.assignInTurn.closeIfDrained

theorem bindLane (h : s.Unscanned) {l t x} : (s.bindLane l t x).Unscanned := by
  have hnote : ∀ {q : State}, q.Unscanned → (q.noteBound t x).Unscanned := fun hq => ite_keeps hq hq
  exact hnote h.modLane.modStream.modTenant.withRecency.takeUnit

theorem selfEvict (h : s.Unscanned) {t} : (s.selfEvict t).Unscanned := by
  unfold State.selfEvict
  split
  · exact h.evict
  · exact h

theorem handOver (h : s.Unscanned) {l} : (s.handOver l).Unscanned := by
  unfold State.handOver
  split
  · exact h
  · exact ite_keeps (bindLane (ite_keeps h.withLaneWait.selfEvict h.withLaneWait)) h

theorem checkOnce (h : s.Unscanned) : s.checkOnce.Unscanned := by
  unfold State.checkOnce
  dsimp only
  split
  · split
    · exact h.evict
    · exact h.withWork
  · exact h.withWork

theorem serviceOnce (h : s.Unscanned) : s.serviceOnce.Unscanned := by
  unfold State.serviceOnce
  dsimp only
  split
  · exact h.withWork
  · split
    · exact h.withWork
    · split
      · exact h.withUnitWait.drawUnit.assignInTurn
      · exact h.withWork

/-- No queue head is served outside RUNNING (R43). -/
theorem serveHead (h : s.Unscanned) {t} : (s.serveHead t).Unscanned := by
  unfold State.serveHead
  rw [if_neg (by simp [State.servesHead, h.not_running.1])]
  exact h

/-! ### Removal, and the end of a command -/

theorem displaceParked (h : s.Unscanned) {t x} : (State.displaceParked t s x).Unscanned := by
  unfold State.displaceParked
  split
  · exact h.modStream.requestSeal
  · exact h

theorem clearStream (h : s.Unscanned) {t x} : (State.clearStream t s x).Unscanned :=
  h.withLaneWait.displaceParked.modStream

theorem markClosed (h : s.Unscanned) {t} : (s.markClosed t).Unscanned := h.modTenant

theorem finalClose (h : s.Unscanned) {t} : (s.finalClose t).Unscanned := by
  have hclosed := (h.markClosed (t := t)).foldl (f := State.closeFinally) (fun _ _ hq => hq.closeFinally)
    ((s.markClosed t).boundLanesOf t)
  exact (hclosed.foldl (f := State.clearStream t) (fun _ _ hq => hq.clearStream) allStreams).raiseCheck

theorem laneStepOnce {t : State} (hw : s.laneStepOnce = some t) (h : s.Unscanned) : t.Unscanned := by
  unfold State.laneStepOnce at hw
  split at hw
  · cases hw
    exact h.serviceOnce
  · split at hw
    · cases hw
      exact h.withWork.handOver
    · split at hw
      · cases hw
        exact h.checkOnce
      · cases hw

theorem workStep {t : State} (hw : s.workStep = some t) (h : s.Unscanned) : t.Unscanned := by
  unfold State.workStep at hw
  split at hw
  · cases hw
    exact laneStepOnce ‹_› h
  · split at hw
    · cases hw
      exact h.withWork.serveHead
    · obtain ⟨n, -, rfl⟩ := Option.map_eq_some_iff.mp hw
      exact h.finalClose

theorem runWork (h : s.Unscanned) : s.runWork.Unscanned := Closed.cascade (P := State.Unscanned) workStep h

theorem completeDrain (h : s.Unscanned) {t} : (s.completeDrain t).Unscanned := by
  have hvacate : ∀ {q : State}, q.Unscanned → (q.vacate t).Unscanned := fun {q} hq => by
    obtain ⟨_, e⟩ := vacate_eq q t
    rw [e]
    exact hq
  exact ite_keeps (ite_keeps (hvacate h.modTenant.post) h.modTenant.post) h

theorem completeDrains (h : s.Unscanned) : s.completeDrains.Unscanned :=
  h.foldl (fun _ _ hq => hq.completeDrain) _

/-! ### The hold-up flush -/

theorem emptyHalf (h : s.Unscanned) {l k lost} : (s.emptyHalf l k lost).Unscanned := by
  refine h.modHalf.foldl (fun q slot hq => ?_) _
  unfold State.lowerFlush
  split
  · exact hq
  · exact ite_keeps hq hq

theorem loseHalf (h : s.Unscanned) {l k} : (State.loseHalf l s k).Unscanned := by
  have hcount : (({ s with lost := bump s.lost (s.half l k).realCount } : State).modCounters
      (fun c => { c with sectorsLost := bump c.sectorsLost (s.half l k).realCount })).Unscanned := h
  have hdrop : ∀ {q : State} {p}, q.Unscanned → ({ q with placement := q.placement.filter p } : State).Unscanned :=
    fun hq => hq
  exact ite_keeps (hdrop hcount.emptyHalf).grantRoom hcount.emptyHalf

theorem loseWaiting (h : s.Unscanned) {l} : (s.loseWaiting l).Unscanned := by
  unfold State.loseWaiting
  split
  · exact h
  · have hlost := h.foldl (f := State.loseHalf l) (fun _ _ hq => hq.loseHalf)
    exact ite_keeps (hlost _).modLane.modLane.joinUnitWait (hlost _).modLane.leaveUnitWait.closeIfDrained

theorem holdWalk (h : s.Unscanned) {l} : (s.holdWalk l).Unscanned := ite_keeps h h.assignInTurn.loseWaiting

theorem holdFree (h : s.Unscanned) {l} : (s.holdFree l).Unscanned := by
  unfold State.holdFree
  split
  · exact h
  · dsimp only
    split
    · exact h.park.modLane.withLists.modStream.modTenant
    · exact h.modLane.withLists.modStream.modTenant

theorem holdDrain (h : s.Unscanned) {t} : (s.holdDrain t).Unscanned :=
  ite_keeps h.finalClose (ite_keeps (h.foldl (fun _ _ hq => hq.displaceParked) _) h)

/-- With the HOLD level asserted, a hold-up flush ends in HELD (R181). -/
theorem finishHold (h : s.Unscanned) : s.finishHold.Unscanned := by
  have hend : ∀ {q : State}, q.Unscanned → State.Unscanned
      (if q.settings.autoResume && !q.holdLevel then q.returnToRunning else { q with device := .held }) := fun {q} hq => by
    rw [if_neg (by simp [hq.2.1])]
    exact ⟨.inr rfl, hq.2⟩
  have hfreed := h.foldl (f := State.holdFree) (fun _ _ hq => hq.holdFree) s.boundLanes
  have hunbound := hfreed.foldl (f := State.holdUnbind) (fun _ _ hq => hq.modStream)
    (s.boundLanes.foldl State.holdFree s).laneWait
  exact hend (hunbound.withoutWaiting.foldl (fun _ _ hq => hq.holdDrain) _).post

theorem conclude (h : s.Unscanned) : s.conclude.Unscanned :=
  completeDrains (ite_keeps h.runWork.finishHold.runWork h.runWork)

end State.Unscanned

/-! ## START -/

/-- Entry to HOLDING abandons a scan (R148), so none runs. -/
theorem abandonScan_unscanned {s : State} (hd : s.device = .holding) (hl : s.holdLevel = true) :
    s.abandonScan.Unscanned := by
  unfold State.abandonScan
  split
  · exact ⟨.inl hd, hl, rfl⟩
  · rename_i hn
    exact ⟨.inl hd, hl, by simpa using hn⟩

theorem enterHolding_unscanned {s : State} (hl : s.holdLevel = true) : s.enterHolding.Unscanned := by
  obtain ⟨_, hstart⟩ := holdStart_only s
  obtain ⟨_, _, hend⟩ := endFrames_only s.holdStart (fun _ => true) holdStatus byTenant
  have hscan : (s.holdStart.endFrames (fun _ => true) holdStatus byTenant).abandonScan.Unscanned :=
    abandonScan_unscanned (by rw [hend, hstart]) (by rw [hend, hstart]; exact hl)
  exact (hscan.foldl (f := State.holdPad) (fun _ _ hq => hq.padFilling) _).foldl (fun _ _ hq => hq.holdWalk) _

/-- Entry to HOLDING ends every queued frame (R54, R178). -/
theorem enterHolding_intake (s : State) : s.enterHolding.intake = [] := by
  obtain ⟨_, hstart⟩ := holdStart_only s
  obtain ⟨_, _, hend⟩ := endFrames_only s.holdStart (fun _ => true) holdStatus byTenant
  have hnone : (s.holdStart.endFrames (fun _ => true) holdStatus byTenant).intake = [] := by rw [hend]; simp
  have hdev : (s.holdStart.endFrames (fun _ => true) holdStatus byTenant).device = .holding := by rw [hend, hstart]
  have c := closed_recordsKept (s.holdStart.endFrames (fun _ => true) holdStatus byTenant)
  have habandon : RecordsKept (s.holdStart.endFrames (fun _ => true) holdStatus byTenant)
      (s.holdStart.endFrames (fun _ => true) holdStatus byTenant).abandonScan :=
    ite_keeps (c.abandon hdev (.refl _)) (.refl _)
  have hkept : RecordsKept (s.holdStart.endFrames (fun _ => true) holdStatus byTenant) s.enterHolding :=
    foldl_closed (fun _ _ => c.holdWalk) _ (foldl_closed (fun _ _ => c.padFilling) _ habandon)
  exact List.eq_nil_of_length_eq_zero (Nat.le_zero.mp (by simpa [hnone] using hkept.fewer))

theorem conclude_intake {s : State} (h : s.intake = []) : s.conclude.intake = [] :=
  List.eq_nil_of_length_eq_zero (Nat.le_zero.mp (by simpa [h] using (conclude_keeps s).fewer))

theorem exec_start {s : State} (h : s.takesControl) (tag : BitVec 16) :
    exec (.start tag) s = .next (s.noteRx.takeStart tag) :=
  congrArg Host.Outcome.next (control_taken h tag _)

/-- The state START makes, before what follows from it (R13, R144, R153, R154, R159). -/
theorem startRunning_reply (s : State) (tag : BitVec 16) :
    s.startRunning.reply tag .ok =
      { s with
        device := .running, epoch := 0#32, epochTimer := some s.settings.epochLength
        scan := if s.settings.trigger = .continuous ∧ s.scan = none then some ⟨.all, 0⟩ else s.scan
        working := if s.settings.trigger = .continuous ∧ s.scan = none then [] else s.working
        scanCount := s.settings.scanRepetition, replies := s.replies ++ [⟨tag, .ok, .bare⟩] } := by
  unfold State.startRunning State.continuousScan
  by_cases h : s.settings.trigger = .continuous ∧ s.scan = none
  · rw [if_pos (by simpa using h), if_pos h, if_pos h]
    rfl
  · rw [if_neg (by simpa using h), if_neg h, if_neg h]
    rfl

/-- Settles O17: with the HOLD level asserted, no scan starts again once entry to HOLDING has abandoned it. -/
theorem startMakesThePartRun : Obligations.StartMakesThePartRun := by
  intro tag s hs
  rw [exec_start hs]
  refine ⟨fun hd => congrArg Host.Outcome.next (if_neg hd), fun hd hl => ?_, fun hd hl => ?_⟩
  · have hrun : s.noteRx.takeStart tag = (s.noteRx.startRunning.reply tag .ok).conclude := by
      unfold State.takeStart
      rw [if_pos (by exact hd), startRunning_reply]
      simp [hl]
    have hkeeps := conclude_keeps (s.noteRx.startRunning.reply tag .ok)
    rw [hrun, startRunning_reply]
    rw [startRunning_reply] at hkeeps
    obtain ⟨hdevice, htimer⟩ := hkeeps.device (by simp)
    refine ⟨_, rfl, hdevice, hkeeps.epoch, htimer, hkeeps.scanCount, fun ht hn => ?_, hkeeps⟩
    obtain ⟨hscan, hworking⟩ := hkeeps.scan (by simp) (by simp [ht])
    exact ⟨hscan.trans (if_pos ⟨ht, hn⟩), hworking.trans (if_pos ⟨ht, hn⟩)⟩
  · have hhold : s.noteRx.takeStart tag = (s.noteRx.startRunning.reply tag .ok).enterHolding.conclude := by
      unfold State.takeStart
      rw [if_pos (by exact hd), startRunning_reply]
      simp [hl]
    have hlevel : (s.noteRx.startRunning.reply tag .ok).holdLevel = true := by
      rw [startRunning_reply]
      exact hl
    have hkeeps := ((closed_recordsKept _).enterHolding (s := s.noteRx.startRunning.reply tag .ok) (.refl _)).trans
      (conclude_keeps _).toRecordsKept
    obtain ⟨hdevice, -, hscan⟩ := (enterHolding_unscanned hlevel).conclude
    rw [hhold]
    refine ⟨_, rfl, hdevice, hkeeps.epoch.trans ?_, ?_, conclude_intake (enterHolding_intake _), hscan,
      hkeeps.nominations.trans ?_⟩
    · rw [startRunning_reply]
    · have hreplies := hkeeps.replies
      rwa [startRunning_reply] at hreplies ⊢
    · rw [startRunning_reply]
      rfl

end Sys2Proof.Machine

/-! ## Tenant requests -/

namespace Sys2Proof.Machine

/-- A tenant request that fails one of its first two checks is answered with the status alone (R26). -/
theorem tenantRequest_refused {s : State} {tenant : BitVec 16} {status : Status}
    (hr : s.tenantRefusal tenant = some status) (tag : BitVec 16) (act : State → State) :
    s.tenantRequest tag tenant act = s.reply tag status := by
  unfold State.tenantRequest
  rw [hr]

theorem tenantRefusal_holding {s : State} (hd : s.device = .holding) (tenant : BitVec 16) :
    s.tenantRefusal tenant = some .wrongState := if_pos hd

theorem tenantIdOk_false {tenant : BitVec 16} (ht : 1023 < tenant.toNat) : tenantIdOk tenant = false := by
  rw [← Bool.not_eq_true, tenantIdOk_iff]
  omega

theorem tenantRefusal_badId {s : State} {tenant : BitVec 16} (hd : s.device ≠ .holding) (ht : 1023 < tenant.toNat) :
    s.tenantRefusal tenant = some .badRequest :=
  (if_neg hd).trans (if_pos (by rw [tenantIdOk_false ht]; rfl))

section
variable {s : State} (hs : s.takesControl) (tag tenant : BitVec 16)
include hs

theorem exec_admitTenant {raw : RawPolicy} (hf : raw.fits = true) :
    exec (.admitTenant tag tenant raw) s = .next (s.noteRx.takeAdmit tag tenant raw) := by
  show Host.Outcome.next (s.control tag raw.fits _) = _
  rw [hf, control_taken hs]

theorem exec_setPolicy {raw : RawPolicy} (hf : raw.fits = true) (code : BitVec 8) :
    exec (.setPolicy tag tenant code raw) s = .next (s.noteRx.takeSetPolicy tag tenant code raw) := by
  show Host.Outcome.next (s.control tag raw.fits _) = _
  rw [hf, control_taken hs]

theorem exec_cancelPending : exec (.cancelPending tag tenant) s = .next (s.noteRx.takeCancel tag tenant) :=
  congrArg Host.Outcome.next (control_taken hs tag _)

theorem exec_suspendTenant : exec (.suspendTenant tag tenant) s = .next (s.noteRx.takeSuspend tag tenant) :=
  congrArg Host.Outcome.next (control_taken hs tag _)

theorem exec_resumeTenant : exec (.resumeTenant tag tenant) s = .next (s.noteRx.takeResume tag tenant) :=
  congrArg Host.Outcome.next (control_taken hs tag _)

theorem exec_removeTenant (mode : BitVec 8) :
    exec (.removeTenant tag tenant mode) s = .next (s.noteRx.takeRemove tag tenant mode) :=
  congrArg Host.Outcome.next (control_taken hs tag _)

end

theorem drainModeOf_high {b : BitVec 8} (h : 1 < b.toNat) : drainModeOf b = none := by
  unfold drainModeOf
  split
  · omega
  · omega
  · rfl

theorem takeRemove_holding {s : State} (hd : s.device = .holding) (tag tenant : BitVec 16) (mode : BitVec 8) :
    s.takeRemove tag tenant mode = s.reply tag .wrongState := if_pos hd

/-- Outside HOLDING a REMOVE_TENANT is refused for its mode code, its tenant id or the drive tenant (R166). -/
theorem takeRemove_badRequest {s : State} (hd : s.device ≠ .holding) (tag : BitVec 16) {tenant : BitVec 16}
    {mode : BitVec 8} (h : 1 < mode.toNat ∨ 1023 < tenant.toNat ∨ tenant.toNat = 0) :
    s.takeRemove tag tenant mode = s.reply tag .badRequest := by
  unfold State.takeRemove
  rw [if_neg hd]
  split
  · rfl
  · rename_i hm
    refine if_pos ?_
    rcases h with h | h | h
    · rw [drainModeOf_high h] at hm
      cases hm
    · rw [tenantIdOk_false h]
      rfl
    · simp [h]

/-- Settles O20: the five requests of R26 share their first two checks, and REMOVE_TENANT has three of its own. -/
theorem tenantRequestChecks : Obligations.TenantRequestChecks := by
  intro tag tenant raw code s hs hf c hc
  have refused : ∀ {status}, s.noteRx.tenantRefusal tenant = some status → c ≠ .removeTenant tag tenant code →
      exec c s = .next (s.noteRx.reply tag status) := by
    intro status hr hn
    rcases hc with rfl | rfl | rfl | rfl | rfl | hc
    · rw [exec_admitTenant hs tag tenant hf]
      exact congrArg Host.Outcome.next (tenantRequest_refused hr tag _)
    · rw [exec_setPolicy hs tag tenant hf]
      exact congrArg Host.Outcome.next (tenantRequest_refused hr tag _)
    · rw [exec_cancelPending hs]
      exact congrArg Host.Outcome.next (tenantRequest_refused hr tag _)
    · rw [exec_suspendTenant hs]
      exact congrArg Host.Outcome.next (tenantRequest_refused hr tag _)
    · rw [exec_resumeTenant hs]
      exact congrArg Host.Outcome.next (tenantRequest_refused hr tag _)
    · exact absurd hc hn
  refine ⟨fun hd => ?_, fun hd ht => ?_, fun hd hc hb => ?_⟩
  · by_cases hc : c = .removeTenant tag tenant code
    · rw [hc, exec_removeTenant hs, takeRemove_holding (s := s.noteRx) hd]
    · exact refused (tenantRefusal_holding hd tenant) hc
  · by_cases hc : c = .removeTenant tag tenant code
    · rw [hc, exec_removeTenant hs, takeRemove_badRequest (s := s.noteRx) hd tag (.inr (.inl ht))]
    · exact refused (tenantRefusal_badId hd ht) hc
  · rw [hc, exec_removeTenant hs, takeRemove_badRequest (s := s.noteRx) hd tag (hb.imp_right .inr)]

/-! ## Policy records -/

theorem noUnitOf_eq (b : BitVec 8) :
    noUnitOf b = if 2 < b.toNat then none
      else some (if b.toNat = 0 then .spill else if b.toNat = 1 then .wait else .refuse) := by
  unfold noUnitOf
  split
  · simp [*]
  · simp [*]
  · simp [*]
  · rename_i h0 h1 h2
    rw [imp_false] at h0 h1 h2
    rw [if_pos (by omega)]

theorem flushModeOf_eq (b : BitVec 8) :
    flushModeOf b = if 1 < b.toNat then none else some (if b.toNat = 0 then .pad else .holdup) := by
  unfold flushModeOf
  split
  · simp [*]
  · simp [*]
  · rename_i h0 h1
    rw [imp_false] at h0 h1
    rw [if_pos (by omega)]

theorem watchSourceOf_eq (b : BitVec 8) :
    watchSourceOf b = if 3 < b.toNat then none
      else some (if b.toNat = 0 then .none else if b.toNat = 1 then .victimValid
        else if b.toNat = 2 then .creditLeft else .evictions) := by
  unfold watchSourceOf
  split
  · simp [*]
  · simp [*]
  · simp [*]
  · simp [*]
  · rename_i h0 h1 h2 h3
    rw [imp_false] at h0 h1 h2 h3
    rw [if_pos (by omega)]

/-- The ranges of R23, each missed by a value outside it. -/
theorem policyRangesOk_false (raw : RawPolicy) :
    policyRangesOk raw = false ↔
      raw.activeStreams.toNat = 0 ∨ 7 < raw.activeStreams.toNat ∨ (∃ e ∈ raw.streamMap, 6 < e.toNat)
        ∨ raw.laneQuota.toNat = 0 ∨ raw.poolMask = 0#8 ∨ raw.watchHigh.toNat < raw.watchLow.toNat := by
  rw [← Bool.not_eq_true]
  simp only [policyRangesOk, Bool.and_eq_true, decide_eq_true_eq, List.all_eq_true, ne_eq]
  constructor
  · intro h
    by_contra hn
    simp only [not_or, not_exists, not_and, not_lt] at hn
    obtain ⟨h0, h7, hm, hq, hp, hw⟩ := hn
    exact h ⟨⟨⟨⟨⟨Nat.one_le_iff_ne_zero.mpr h0, h7⟩, hm⟩, hq⟩, hp⟩, hw⟩
  · rintro h ⟨⟨⟨⟨⟨h1, h7⟩, hm⟩, hq⟩, hp⟩, hw⟩
    rcases h with h | h | ⟨e, he, h⟩ | h | h | h
    · omega
    · omega
    · exact absurd (hm e he) (Nat.not_le.mpr h)
    · exact hq h
    · exact hp h
    · omega

/-- The record of R24 that a record within R23 is clamped to. -/
def clampedPolicy (raw : RawPolicy) : Policy where
  activeStreams := raw.activeStreams.toNat
  streamMap := raw.streamMap.map BitVec.toNat
  allowance := clampAllowance raw.allowance.toNat
  laneQuota := min raw.laneQuota.toNat 8
  laneFloor := min (min raw.laneFloor.toNat 2) (min raw.laneQuota.toNat 8)
  poolMask := raw.poolMask
  noUnit := if raw.noUnit.toNat = 0 then .spill else if raw.noUnit.toNat = 1 then .wait else .refuse
  flushMode := if raw.flushMode.toNat = 0 then .pad else .holdup
  watchSource := if raw.watchSource.toNat = 0 then .none else if raw.watchSource.toNat = 1 then .victimValid
    else if raw.watchSource.toNat = 2 then .creditLeft else .evictions
  watchLow := raw.watchLow.toNat
  watchHigh := raw.watchHigh.toNat
  watchDepth := min raw.watchDepth.toNat 15

/-- A record is refused for a range (R23) or a code, and is clamped otherwise (R24). -/
theorem policyOf_eq (raw : RawPolicy) :
    policyOf raw =
      if policyRangesOk raw = false ∨ 2 < raw.noUnit.toNat ∨ 1 < raw.flushMode.toNat ∨ 3 < raw.watchSource.toNat then none
      else some (clampedPolicy raw) := by
  unfold policyOf
  rw [noUnitOf_eq, flushModeOf_eq, watchSourceOf_eq]
  by_cases hr : policyRangesOk raw = false
  · simp [hr]
  · rw [Bool.not_eq_false] at hr
    by_cases hn : 2 < raw.noUnit.toNat
    · simp [hr, hn]
    · by_cases hm : 1 < raw.flushMode.toNat
      · simp [hr, hn, hm]
      · by_cases hw : 3 < raw.watchSource.toNat
        · simp [hr, hn, hm, hw]
        · simp [hr, hn, hm, hw, clampedPolicy]

/-- Settles O21, by the two outcomes of `policyOf_eq`. -/
theorem policyRecordIsCheckedAndClamped : Obligations.PolicyRecordIsCheckedAndClamped := by
  intro raw
  constructor
  · rw [policyOf_eq, ite_eq_left_iff, policyRangesOk_false]
    simp only [reduceCtorEq, imp_false, not_not, or_assoc, or_comm, or_left_comm]
  · intro p hp
    rw [policyOf_eq] at hp
    split at hp
    · cases hp
    · obtain rfl := Option.some.inj hp
      exact ⟨rfl, rfl, rfl, rfl, rfl, rfl, rfl, rfl, rfl, rfl, rfl, rfl⟩

end Sys2Proof.Machine

namespace Sys2Proof.Machine

/-! ## ADMIT_TENANT -/

theorem takeAdmit_taken {s : State} {tenant : BitVec 16} (hd : s.device ≠ .holding) (ht : tenant.toNat ≤ 1023)
    (tag : BitVec 16) (raw : RawPolicy) :
    s.takeAdmit tag tenant raw =
      match (s.tenant tenant.toNat).state with
      | .vacant =>
        match policyOf raw with
        | none => s.reply tag .badRequest
        | some p =>
          if Config.floorLimit < s.floorSum + p.laneFloor then s.reply tag .noCapacity
          else (s.enrol tenant.toNat p).reply tag .ok (.policy p)
      | .removed => s.reply tag .unitsRemain
      | _ => s.reply tag .tenantState :=
  tenantRequest_taken hd ht _

/-- Clearing the streams of a tenant touches the stream contexts alone (R27). -/
theorem clearStreams_eq (s : State) (t : Nat) : ∃ x, s.clearStreams t = { s with streams := x } := by
  unfold State.clearStreams
  generalize List.range Config.streamCount = l
  induction l generalizing s with
  | nil => exact ⟨_, rfl⟩
  | cons y rest ih =>
    obtain ⟨x, hx⟩ := ih (s.setStream t y StreamCtx.reset)
    exact ⟨x, hx⟩

/-- The stream contexts of a tenant, and no others, are cleared (R27). -/
theorem clearStreams_stream (s : State) (t n y : Nat) :
    (s.clearStreams t).stream n y =
      if ∃ x ∈ List.range 8, streamKey n y = streamKey t x then StreamCtx.reset else s.stream n y := by
  have fold : ∀ (l : List Nat) (s : State),
      (l.foldl (fun s x => s.setStream t x StreamCtx.reset) s).stream n y =
        if ∃ x ∈ l, streamKey n y = streamKey t x then StreamCtx.reset else s.stream n y := by
    intro l
    induction l with
    | nil => simp
    | cons x rest ih =>
      intro s
      rw [List.foldl_cons, ih, setStream_stream]
      by_cases hx : streamKey n y = streamKey t x <;> simp [hx]
  exact fold _ s

theorem streamKey_inj {t x n y : Nat} (hx : x < 8) (hy : y < 8) : streamKey t x = streamKey n y ↔ t = n ∧ x = y := by
  unfold streamKey Config.streamCount
  omega

theorem enrol_tenant (s : State) (t : Nat) (p : Policy) (n : Nat) :
    (s.enrol t p).tenant n =
      if n = t then
        { s.tenant t with
          state := .active, active := p, pendingPolicy := none, credit := p.allowance, epochEvictions := 0
          watch := ⟨0, .none⟩, counters := TenantCounters.reset }
      else s.tenant n := by
  obtain ⟨x, hx⟩ := clearStreams_eq s t
  unfold State.enrol
  rw [modTenant_tenant, hx]
  rfl

theorem enrol_eq (s : State) (t : Nat) (p : Policy) : ∃ x y, s.enrol t p = { s with tenants := x, streams := y } := by
  obtain ⟨y, hy⟩ := clearStreams_eq s t
  unfold State.enrol
  rw [hy]
  exact ⟨_, _, rfl⟩

theorem enrol_stream (s : State) (t : Nat) (p : Policy) (n y : Nat) :
    (s.enrol t p).stream n y = (s.clearStreams t).stream n y := modTenant_stream _ _ _ _ _

/-- Settles O22, by the tenant state, the record and the floor sum. -/
theorem admitMakesAVacantTenantActive : Obligations.AdmitMakesAVacantTenantActive := by
  intro tag tenant raw s hs hf hd ht
  have htake := takeAdmit_taken (s := s.noteRx) hd ht tag raw
  rw [exec_admitTenant hs tag tenant hf, htake]
  simp only [noteRx_tenant]
  refine ⟨fun hr => ?_, fun hr hv => ?_, fun hv hp => ?_, fun p hv hp => ⟨fun hl => ?_, fun hl => ?_⟩⟩
  · rw [hr]
  · cases hst : (s.tenant tenant.toNat).state with
    | vacant => exact absurd hst hv
    | removed => exact absurd hst hr
    | _ => rfl
  · rw [hv, hp]
  · rw [hv, hp]
    exact congrArg Host.Outcome.next (if_pos hl)
  · rw [hv, hp]
    refine ⟨_, congrArg Host.Outcome.next (if_neg (Nat.not_lt.mpr hl)), ?_, fun n hn => ?_, fun x hx => ?_,
      fun n x hn hx => ?_, ?_⟩
    · rw [reply_tenant, enrol_tenant, if_pos rfl]
      rfl
    · rw [reply_tenant, enrol_tenant, if_neg hn]
      rfl
    · rw [reply_stream, enrol_stream, clearStreams_stream, if_pos ⟨x, List.mem_range.mpr hx, rfl⟩]
      rfl
    · rw [reply_stream, enrol_stream, clearStreams_stream, if_neg, noteRx_stream]
      rintro ⟨y, hy, e⟩
      exact hn ((streamKey_inj hx (List.mem_range.mp hy)).mp e).1
    · obtain ⟨x, y, e⟩ := enrol_eq s.noteRx tenant.toNat p
      rw [e]
      rfl

/-! ## SET_POLICY and CANCEL_PENDING -/

theorem takeSetPolicy_taken {s : State} {tenant : BitVec 16} (hd : s.device ≠ .holding) (ht : tenant.toNat ≤ 1023)
    (tag : BitVec 16) (code : BitVec 8) (raw : RawPolicy) :
    s.takeSetPolicy tag tenant code raw =
      if (s.tenant tenant.toNat).isServed then
        match code.toNat, policyOf raw with
        | 0, some p => s.setNow tag tenant.toNat p
        | 1, some p => s.setAtEpoch tag tenant.toNat p
        | _, _ => s.reply tag .badRequest
      else s.reply tag .tenantState :=
  tenantRequest_taken hd ht _

/-- What a new active record hands over to the balance and the watch record (R29, R49). -/
theorem Tenant.under_eq (p : Policy) :
    Tenant.under p = fun v =>
      { v with
        active := p
        credit :=
          if p.allowance = 0 then v.credit
          else if v.active.allowance = 0 then p.allowance
          else if p.allowance < v.active.allowance then min v.credit (2 * p.allowance)
          else v.credit
        watch :=
          if v.active.watchSource ≠ p.watchSource ∨ v.active.watchLow ≠ p.watchLow
              ∨ v.active.watchHigh ≠ p.watchHigh ∨ v.active.watchDepth ≠ p.watchDepth then ⟨0, .none⟩
          else v.watch } := by
  funext v
  unfold Tenant.under creditUnder Policy.watchDiffers
  congr 1
  simp only [Bool.or_eq_true, decide_eq_true_eq, or_assoc]

theorem isServed_iff (v : Tenant) : v.isServed = true ↔ v.state = .active ∨ v.state = .suspended := by
  simp [Tenant.isServed]

/-- A SET_POLICY with when NOW keeps, past its handovers, what internal events keep (log 8). -/
theorem applyRecord_keeps (s : State) (t : Nat) (p : Policy) (tag : BitVec 16) (status : Status) (body : ReplyBody) :
    WorkKeeps (s.modTenant t (Tenant.under p)) ((s.applyRecord t p).runWork.reply tag status body).conclude :=
  ((((closed_workKeeps _).toClosed.applyRecord (.refl _)).trans (runWork_keeps _)).trans (.reply _ _ _ _)).trans
    (conclude_keeps _)

/-- Settles O23: after the handovers of R29 only internal events come. -/
theorem setPolicyNow : Obligations.SetPolicyNow := by
  intro tag tenant raw p s hs hf hd ht hserved hp
  have hexec : exec (.setPolicy tag tenant 0#8 raw) s = .next (s.noteRx.setNow tag tenant.toNat p) := by
    rw [exec_setPolicy hs tag tenant hf, takeSetPolicy_taken (s := s.noteRx) hd ht, if_pos (by exact hserved), hp]
    rfl
  rw [hexec]
  refine ⟨fun hl => congrArg Host.Outcome.next (if_pos hl), fun hl => ?_⟩
  refine ⟨_, congrArg Host.Outcome.next (if_neg (Nat.not_lt.mpr hl)), ?_⟩
  have hkeeps := applyRecord_keeps s.noteRx tenant.toNat p tag .ok (.policy p)
  have hsame : (s.noteRx.modTenant tenant.toNat (Tenant.under p)).tenant tenant.toNat =
      Tenant.under p (s.tenant tenant.toNat) := by
    rw [modTenant_tenant, if_pos rfl]
    rfl
  have hstate : (s.tenant tenant.toNat).state ≠ .draining ∧ (s.tenant tenant.toNat).state ≠ .removed := by
    rcases (isServed_iff _).mp hserved with e | e <;> simp [e]
  obtain ⟨hst, hpend, hwatch⟩ := hkeeps.undrained tenant.toNat (by rw [hsame]; exact hstate.1)
    (by rw [hsame]; exact hstate.2)
  have hactive := hkeeps.active tenant.toNat
  have hbalance := hkeeps.balance tenant.toNat
  rw [hsame] at hst hpend hwatch hactive hbalance
  refine ⟨hactive, hpend, hst, fun hq => ?_, ?_, mem_reply_conclude _ _ _ _, ?_⟩
  · rw [hbalance hq, Tenant.under_eq]
  · rw [hwatch, Tenant.under_eq]
  · rw [← Tenant.under_eq]
    exact hkeeps

/-- Settles O24, by the tenant state, the when code, the record and the floor sum. -/
theorem setPolicyAtTheNextEpoch : Obligations.SetPolicyAtTheNextEpoch := by
  intro tag tenant code raw s hs hf hd ht
  rw [exec_setPolicy hs tag tenant hf, takeSetPolicy_taken (s := s.noteRx) hd ht, noteRx_tenant]
  refine ⟨fun hv => ?_, fun hv hb => ?_, fun p hv hp hc => ?_⟩
  · rw [hv]
    rfl
  · rw [if_pos hv]
    split
    · rcases hb with hb | hb
      · omega
      · simp_all
    · rcases hb with hb | hb
      · omega
      · simp_all
    · rfl
  · rw [if_pos hv, hc, hp]
    exact ⟨fun hl => congrArg Host.Outcome.next (if_pos hl),
      fun hl => congrArg Host.Outcome.next (if_neg (Nat.not_lt.mpr hl))⟩

theorem takeCancel_taken {s : State} {tenant : BitVec 16} (hd : s.device ≠ .holding) (ht : tenant.toNat ≤ 1023)
    (tag : BitVec 16) :
    s.takeCancel tag tenant =
      if (s.tenant tenant.toNat).isServed then
        if (s.tenant tenant.toNat).pendingPolicy.isSome then
          (s.modTenant tenant.toNat (fun v => { v with pendingPolicy := none })).reply tag .ok
        else s.reply tag .none
      else s.reply tag .tenantState :=
  tenantRequest_taken hd ht _

/-- Settles O25, by the tenant state and the pending record. -/
theorem cancelPendingWithdrawsTheRecord : Obligations.CancelPendingWithdrawsTheRecord := by
  intro tag tenant s hs hd ht
  rw [exec_cancelPending hs, takeCancel_taken (s := s.noteRx) hd ht, noteRx_tenant]
  refine ⟨fun hv => ?_, fun hv => ?_⟩
  · have hserved : (s.tenant tenant.toNat).isServed = false := by
      rcases hv with hv | hv | hv <;> simp [Tenant.isServed, hv]
    rw [hserved]
    rfl
  · rw [if_pos ((isServed_iff _).mpr hv)]
    refine ⟨fun hp => ?_, fun hp => ?_⟩
    · rw [hp]
      rfl
    · rw [if_pos (Option.isSome_iff_ne_none.mpr hp)]
      refine ⟨_, rfl, rfl, ?_, ?_⟩ <;> rw [reply_tenant, modTenant_tenant, if_pos rfl] <;> rfl

/-! ## SUSPEND_TENANT and RESUME_TENANT -/

theorem takeSuspend_taken {s : State} {tenant : BitVec 16} (hd : s.device ≠ .holding) (ht : tenant.toNat ≤ 1023)
    (tag : BitVec 16) :
    s.takeSuspend tag tenant =
      if (s.tenant tenant.toNat).state = .active then
        ((s.modTenant tenant.toNat (fun v => { v with state := .suspended })).raiseCheck.runWork.reply tag .ok).conclude
      else s.reply tag .tenantState :=
  tenantRequest_taken hd ht _

theorem takeResume_taken {s : State} {tenant : BitVec 16} (hd : s.device ≠ .holding) (ht : tenant.toNat ≤ 1023)
    (tag : BitVec 16) :
    s.takeResume tag tenant =
      if (s.tenant tenant.toNat).state = .suspended then
        (((s.modTenant tenant.toNat (fun v => { v with state := .active })).serveAgain tenant.toNat).runWork.reply
          tag .ok).conclude
      else s.reply tag .tenantState :=
  tenantRequest_taken hd ht _

/-- A tenant set to ACTIVE or SUSPENDED is in that state after the internal events that follow. -/
theorem state_of_keeps {s u : State} {t : Nat} {st : TenantState} (hst : st = .active ∨ st = .suspended)
    (h : WorkKeeps (s.modTenant t (fun v => { v with state := st })) u) : (u.tenant t).state = st := by
  have hset : ((s.modTenant t (fun v => { v with state := st })).tenant t).state = st := by
    rw [modTenant_tenant, if_pos rfl]
  have hkept := h.undrained t (by rw [hset]; rcases hst with rfl | rfl <;> decide)
    (by rw [hset]; rcases hst with rfl | rfl <;> decide)
  exact hkept.1.trans hset

/-- Settles O26: the tenant state is set, and only internal events follow. -/
theorem suspendAndResume : Obligations.SuspendAndResume := by
  intro tag tenant s hs hd ht
  rw [exec_suspendTenant hs, exec_resumeTenant hs, takeSuspend_taken (s := s.noteRx) hd ht,
    takeResume_taken (s := s.noteRx) hd ht, noteRx_tenant]
  refine ⟨fun hv => congrArg Host.Outcome.next (if_neg hv), fun hv => ?_,
    fun hv => congrArg Host.Outcome.next (if_neg hv), fun hv => ?_⟩
  · have hkeeps : WorkKeeps (s.noteRx.modTenant tenant.toNat (fun v => { v with state := .suspended }))
        ((s.noteRx.modTenant tenant.toNat (fun v => { v with state := .suspended })).raiseCheck.runWork.reply
          tag .ok).conclude :=
      ((((closed_workKeeps _).toClosed.raiseCheck (.refl _)).trans (runWork_keeps _)).trans (.reply _ _ _ _)).trans
        (conclude_keeps _)
    exact ⟨_, congrArg Host.Outcome.next (if_pos hv), state_of_keeps (.inr rfl) hkeeps, mem_reply_conclude _ _ _ _, hkeeps⟩
  · have hkeeps : WorkKeeps (s.noteRx.modTenant tenant.toNat (fun v => { v with state := .active }))
        (((s.noteRx.modTenant tenant.toNat (fun v => { v with state := .active })).serveAgain tenant.toNat).runWork.reply
          tag .ok).conclude :=
      ((((closed_workKeeps _).toClosed.serveAgain (.refl _)).trans (runWork_keeps _)).trans (.reply _ _ _ _)).trans
        (conclude_keeps _)
    exact ⟨_, congrArg Host.Outcome.next (if_pos hv), state_of_keeps (.inl rfl) hkeeps, mem_reply_conclude _ _ _ _, hkeeps⟩

/-! ## WRITE -/

/-- A table without a row of n reads as the default there. -/
theorem rowOf_of_not_mem {α : Type} (d : α) {t : Table α} {n : Nat} (h : n ∉ rowKeys t) : rowOf d t n = d := by
  induction t with
  | nil => rfl
  | cons row rest ih =>
    obtain ⟨k, v⟩ := row
    simp only [rowKeys, List.map_cons, List.mem_cons, not_or] at h
    rw [rowOf_cons, if_neg (Ne.symm h.1)]
    exact ih h.2

theorem mem_rowKeys_tenants {s : State} {t : Nat} (h : s.tenant t ≠ Tenant.reset) : t ∈ rowKeys s.tenants := by
  by_contra hn
  exact h (rowOf_of_not_mem Tenant.reset hn)

/-- No final close is due exactly when every drain in phase FRAMES has a frame queued, or the device is HOLDING (R169). -/
theorem closeDue_eq_none (s : State) :
    s.closeDue = none ↔ s.device = .holding ∨ ∀ t, (s.tenant t).inFrames = true → s.queueOf t ≠ [] := by
  unfold State.closeDue
  split
  · rename_i hd
    simp [hd]
  · rename_i hd
    rw [List.find?_eq_none]
    constructor
    · refine fun h => .inr fun t hf hq => h t (mem_rowKeys_tenants fun e => ?_) (by simp [hf, hq])
      rw [e] at hf
      cases hf
    · rintro (h | h) t -
      · exact absurd h hd
      · simpa using h t

/-- No drain is complete in any tenant when none is complete in the tenants that have a row (R173). -/
theorem drained_false_of_rows {s : State} (h : ∀ t ∈ rowKeys s.tenants, s.drained t = false) (t : Nat) :
    s.drained t = false := by
  by_cases ht : s.tenant t = Tenant.reset
  · unfold State.drained
    rw [ht]
    rfl
  · exact h t (mem_rowKeys_tenants ht)

/-- A frame queued for a tenant that is served leaves nothing new to be done; the tenant's counters may change with it. -/
theorem isQuiet_of_queued {s q : State} (h : s.isQuiet) {f : Frame} (hi : q.intake = s.intake ++ [f])
    (hw : q.work = s.work) (hv : q.device = s.device) (hl : q.lanes = s.lanes) (hu : q.units = s.units)
    (ht : ∀ n, (q.tenant n).state = (s.tenant n).state ∧ (q.tenant n).drain = (s.tenant n).drain) : q.isQuiet := by
  obtain ⟨hwork, hclose, hflush, hdrained⟩ := h
  have hclosed : ∀ n, (q.tenant n).isClosed = (s.tenant n).isClosed := fun n => by
    simp only [Tenant.isClosed, (ht n).1, (ht n).2]
  refine ⟨hw.trans hwork, ?_, ?_, fun n _ => ?_⟩
  · rw [closeDue_eq_none] at hclose ⊢
    refine hclose.imp (hv.trans ·) fun hall n hf hq => ?_
    have hframes : (s.tenant n).inFrames = true := by
      rw [← hf]
      simp only [Tenant.inFrames, (ht n).1, (ht n).2]
    refine hall n hframes ?_
    unfold State.queueOf at hq ⊢
    rw [hi, List.filter_append, List.append_eq_nil_iff] at hq
    exact hq.1
  · unfold State.flushDone
    rw [hv, hl]
    exact hflush
  · have := drained_false_of_rows hdrained n
    unfold State.drained at this ⊢
    rw [hclosed, hl, hu]
    exact this

/-- Classification (R39). -/
theorem classify_spec (p : Policy) (hint : BitVec 8) :
    classify p hint true = (7, false)
    ∧ (p.streamMap.getD (hint.toNat % 16) 0 < p.activeStreams →
        classify p hint false = (p.streamMap.getD (hint.toNat % 16) 0, false))
    ∧ (p.activeStreams ≤ p.streamMap.getD (hint.toNat % 16) 0 → classify p hint false = (0, true)) := by
  refine ⟨rfl, fun h => ?_, fun h => ?_⟩
  · exact if_pos h
  · exact if_neg (Nat.not_lt.mpr h)

theorem takeWrite_accepted {s : State} {tenant : BitVec 16} {count : BitVec 8} (hi : s.intake.length < 64)
    (ht : tenant.toNat ≤ 1023) (h1 : 1 ≤ count.toNat) (h2 : count.toNat ≤ 16) (hd : s.device = .running)
    (hv : (s.tenant tenant.toNat).isServed = true) (tag : BitVec 16) (hint flags : BitVec 8) (writeTag : BitVec 32)
    (sectors : List Sector) :
    s.takeWrite tag tenant hint flags writeTag count sectors =
      (s.acceptWrite tag tenant hint flags writeTag sectors).conclude := by
  unfold State.takeWrite
  rw [if_neg (Nat.not_le.mpr hi), arrivalRefusal_of_operands s ht h1 h2, hd]
  simp [hv]

/-- Settles O51: the frame is queued, and served at once only at the head. -/
theorem writesAreQueued : Obligations.WritesAreQueued := by
  refine ⟨classify_spec, ?_⟩
  intro tag tenant hint flags writeTag count sectors s hs hf hi ht h1 h2 hd hv k f s' hk hfr hs'
  have haccept : s.noteRx.acceptWrite tag tenant hint flags writeTag sectors = s'.appendFrame f := by
    subst hk hfr hs'
    rfl
  have hsame : ∃ x, s' = { s.noteRx with tenants := x } := by
    rw [hs']
    split <;> exact ⟨_, rfl⟩
  obtain ⟨x, hx⟩ := hsame
  have hintake : s'.intake = s.intake := by rw [hx]; rfl
  rw [exec_write hs hf, takeWrite_accepted (s := s.noteRx) hi ht h1 h2 hd ((isServed_iff _).mpr hv), haccept]
  refine ⟨⟨_, rfl, ?_⟩, fun hq hh => ?_⟩
  · have hqueued : WorkKeeps { s' with intake := s.intake ++ [f] } (s'.appendFrame f) := by
      rw [← hintake]
      exact ite_keeps ((closed_workKeeps _).toClosed.raiseHead (.refl _)) (.refl _)
    exact hqueued.trans (conclude_keeps _)
  · have hbehind : s'.appendFrame f = { s' with intake := s.intake ++ [f] } := by
      have hhead : (s'.headOf f.tenant).isNone = false := by
        rw [hfr, State.headOf, hintake, Option.isNone_eq_false_iff, Option.isSome_iff_ne_none]
        exact hh
      unfold State.appendFrame
      rw [hhead, hintake]
      rfl
    rw [hbehind, conclude_quiet]
    refine isQuiet_of_queued (f := f) hq rfl (by rw [hx]; rfl) (by rw [hx]; rfl) (by rw [hx]; rfl) (by rw [hx]; rfl) ?_
    intro n
    show (s'.tenant n).state = _ ∧ (s'.tenant n).drain = _
    rw [hs']
    split
    · rw [modTenant_tenant]
      split
      · rename_i e
        rw [e]
        exact ⟨rfl, rfl⟩
      · exact ⟨rfl, rfl⟩
    · exact ⟨rfl, rfl⟩

end Sys2Proof.Machine

/-! ## Sums over a table

The counts of Coherent run over the rows of a table. Read by record number, where the default weighs nothing, they change only
with the records. -/

namespace Sys2Proof.Machine

section
variable {α : Type}

/-- The weights of the rows of a table, added up. -/
def tableSum (w : α → Nat) (t : Table α) : Nat := (t.map (fun row => w row.2)).sum

theorem countP_eq_tableSum (p : α → Bool) (t : Table α) :
    t.countP (fun row => p row.2) = tableSum (fun v => (p v).toNat) t := by
  unfold tableSum
  induction t with
  | nil => rfl
  | cons row rest ih => cases h : p row.2 <;> simp [h, ih, Nat.add_comm]

theorem lt_of_risingAbove {b : Nat} {l : List Nat} (h : risingAbove b l = true) : ∀ k ∈ l, b ≤ k := by
  induction l generalizing b with
  | nil => simp
  | cons a rest ih =>
    simp only [risingAbove, Bool.and_eq_true, decide_eq_true_eq] at h
    intro k hk
    rcases List.mem_cons.mp hk with rfl | hk
    · exact h.1
    · have := ih h.2 k hk
      omega

theorem nodup_of_risingAbove {b : Nat} {l : List Nat} (h : risingAbove b l = true) : l.Nodup := by
  induction l generalizing b with
  | nil => exact List.nodup_nil
  | cons a rest ih =>
    simp only [risingAbove, Bool.and_eq_true, decide_eq_true_eq] at h
    refine List.nodup_cons.mpr ⟨fun ha => ?_, ih h.2⟩
    have := lt_of_risingAbove h.2 a ha
    omega

/-- A table in its form has one row for a number. -/
theorem nodup_rowKeys [DecidableEq α] {d : α} {t : Table α} (h : tableWf d t = true) : (rowKeys t).Nodup := by
  simp only [tableWf, Bool.and_eq_true] at h
  exact nodup_of_risingAbove h.1

/-- The sum over the rows is the sum over the records of any set of numbers that has them all. -/
theorem tableSum_eq_sum {w : α → Nat} {d : α} (hd : w d = 0) {t : Table α} (ht : (rowKeys t).Nodup) {S : Finset Nat}
    (hS : ∀ k ∈ rowKeys t, k ∈ S) : tableSum w t = ∑ n ∈ S, w (rowOf d t n) := by
  induction t with
  | nil => simp [tableSum, hd]
  | cons row rest ih =>
    obtain ⟨k, v⟩ := row
    simp only [rowKeys, List.map_cons, List.nodup_cons] at ht
    have hk : k ∈ S := hS k (by simp [rowKeys])
    have hrest := ih ht.2 (fun j hj => hS j (List.mem_cons_of_mem _ hj))
    have hout : w (rowOf d rest k) = 0 := by rw [rowOf_of_not_mem d ht.1, hd]
    have hother : ∑ n ∈ S.erase k, w (rowOf d ((k, v) :: rest) n) = ∑ n ∈ S.erase k, w (rowOf d rest n) :=
      Finset.sum_congr rfl fun n hn => by rw [rowOf_cons, if_neg (Finset.ne_of_mem_erase hn).symm]
    calc tableSum w ((k, v) :: rest) = w v + tableSum w rest := by simp [tableSum]
      _ = w v + ∑ n ∈ S.erase k, w (rowOf d rest n) := by
        rw [hrest, ← Finset.add_sum_erase S (fun n => w (rowOf d rest n)) hk, hout, Nat.zero_add]
      _ = ∑ n ∈ S, w (rowOf d ((k, v) :: rest) n) := by
        rw [← Finset.add_sum_erase S (fun n => w (rowOf d ((k, v) :: rest) n)) hk, hother, rowOf_cons, if_pos rfl]

variable [DecidableEq α] {w : α → Nat} {d : α}

/-- Two tables whose records weigh the same but for one. -/
theorem tableSum_change (hd : w d = 0) {t t' : Table α} (ht : tableWf d t = true) (ht' : tableWf d t' = true) (n : Nat)
    (h : ∀ m, m ≠ n → w (rowOf d t' m) = w (rowOf d t m)) :
    tableSum w t' + w (rowOf d t n) = tableSum w t + w (rowOf d t' n) := by
  let S : Finset Nat := insert n ((rowKeys t).toFinset ∪ (rowKeys t').toFinset)
  have hn : n ∈ S := Finset.mem_insert_self _ _
  rw [tableSum_eq_sum hd (nodup_rowKeys ht) (S := S) (by intro k hk; simp [S, hk]),
    tableSum_eq_sum hd (nodup_rowKeys ht') (S := S) (by intro k hk; simp [S, hk]),
    ← Finset.add_sum_erase S (fun m => w (rowOf d t m)) hn, ← Finset.add_sum_erase S (fun m => w (rowOf d t' m)) hn,
    Finset.sum_congr rfl (fun m hm => h m (Finset.ne_of_mem_erase hm))]
  omega

/-- Two tables of which one holds no heavier record. -/
theorem tableSum_le (hd : w d = 0) {t t' : Table α} (ht : tableWf d t = true) (ht' : tableWf d t' = true)
    (h : ∀ n, w (rowOf d t' n) ≤ w (rowOf d t n)) : tableSum w t' ≤ tableSum w t := by
  let S : Finset Nat := (rowKeys t).toFinset ∪ (rowKeys t').toFinset
  rw [tableSum_eq_sum hd (nodup_rowKeys ht) (S := S) (by intro k hk; simp [S, hk]),
    tableSum_eq_sum hd (nodup_rowKeys ht') (S := S) (by intro k hk; simp [S, hk])]
  exact Finset.sum_le_sum fun n _ => h n

/-- Two tables whose records weigh the same. -/
theorem tableSum_congr (hd : w d = 0) {t t' : Table α} (ht : tableWf d t = true) (ht' : tableWf d t' = true)
    (h : ∀ n, w (rowOf d t' n) = w (rowOf d t n)) : tableSum w t' = tableSum w t :=
  le_antisymm (tableSum_le hd ht ht' fun n => (h n).le) (tableSum_le hd ht' ht fun n => (h n).ge)

/-- A table with a record that weighs something. -/
theorem tableSum_pos (hd : w d = 0) {t : Table α} (ht : tableWf d t = true) {n : Nat} (h : 0 < w (rowOf d t n)) :
    0 < tableSum w t := by
  have hn : n ∈ rowKeys t := by
    by_contra hn
    rw [rowOf_of_not_mem d hn, hd] at h
    omega
  rw [tableSum_eq_sum hd (nodup_rowKeys ht) (S := (rowKeys t).toFinset) (by simp)]
  exact lt_of_lt_of_le h (Finset.single_le_sum (f := fun n => w (rowOf d t n)) (fun _ _ => Nat.zero_le _) (by simpa using hn))

/-- A table none of whose records weighs anything. -/
theorem tableSum_zero (hd : w d = 0) {t : Table α} (ht : tableWf d t = true) (h : ∀ n, w (rowOf d t n) = 0) :
    tableSum w t = 0 := by
  rw [tableSum_eq_sum hd (nodup_rowKeys ht) (S := (rowKeys t).toFinset) (by simp)]
  exact Finset.sum_eq_zero fun n _ => h n

end

end Sys2Proof.Machine

/-! ## What the lists, counts and links do not read

Most of an internal event writes halves, die queues, counters, notices and balances. `SameCore` says that no list, count or
link of Coherent and Linked can tell the difference; the operations that only do such things are followed here once. -/

namespace Sys2Proof.Machine

/-- What the lists and counts read of a lane: its state and the stream it names. -/
def Lane.view (v : Lane) : LaneState × Option (Nat × Nat) := (v.state, v.stream)

/-- What the counts read of a unit. -/
def UnitRec.view (r : UnitRec) : UnitState × Option (Nat × Nat) := (r.state, r.owner)

theorem Lane.view_eq {v w : Lane} : w.view = v.view ↔ w.state = v.state ∧ w.stream = v.stream := Prod.mk.injEq _ _ _ _ ▸ Iff.rfl

theorem UnitRec.view_eq {r q : UnitRec} : q.view = r.view ↔ q.state = r.state ∧ q.owner = r.owner :=
  Prod.mk.injEq _ _ _ _ ▸ Iff.rfl

theorem Lane.isBound_congr {v w : Lane} (h : w.view = v.view) : w.isBound = v.isBound := by
  unfold Lane.isBound
  rw [(Lane.view_eq.mp h).1]

theorem UnitRec.ownedBy_congr {r q : UnitRec} (h : q.view = r.view) (t : Nat) : q.ownedBy t = r.ownedBy t := by
  obtain ⟨hs, ho⟩ := UnitRec.view_eq.mp h
  unfold UnitRec.ownedBy UnitRec.isOpen
  rw [hs, ho]

/-- Two tenant contexts that differ in the balance, the watch record, the counters and the deadline timer at most. -/
structure Tenant.Same (v w : Tenant) : Prop where
  state : w.state = v.state
  active : w.active = v.active
  pendingPolicy : w.pendingPolicy = v.pendingPolicy
  owned : w.owned = v.owned
  bound : w.bound = v.bound
  phase : w.drain.map Drain.phase = v.drain.map Drain.phase

namespace Tenant

theorem Same.refl (v : Tenant) : v.Same v := ⟨rfl, rfl, rfl, rfl, rfl, rfl⟩

theorem Same.trans {u v w : Tenant} (h : u.Same v) (k : v.Same w) : u.Same w :=
  ⟨k.state.trans h.state, k.active.trans h.active, k.pendingPolicy.trans h.pendingPolicy, k.owned.trans h.owned,
    k.bound.trans h.bound, k.phase.trans h.phase⟩

theorem inFrames_iff (v : Tenant) : v.inFrames = true ↔ v.state = .draining ∧ v.drain.map Drain.phase = some .frames := by
  unfold Tenant.inFrames
  cases v.drain <;> simp

theorem isClosed_iff (v : Tenant) : v.isClosed = true ↔ v.state = .draining ∧ v.drain.map Drain.phase = some .closed := by
  unfold Tenant.isClosed
  cases v.drain <;> simp

variable {v w : Tenant} (h : v.Same w)
include h

theorem Same.isServed : w.isServed = v.isServed := by
  unfold Tenant.isServed
  rw [h.state]

theorem Same.inFrames : w.inFrames = v.inFrames := by
  rw [Bool.eq_iff_iff, inFrames_iff, inFrames_iff, h.state, h.phase]

theorem Same.isOpen : w.isOpen = v.isOpen := by
  unfold Tenant.isOpen
  rw [h.isServed, h.inFrames]

theorem Same.reservation : w.reservation = v.reservation := by
  unfold Tenant.reservation
  rw [h.pendingPolicy, h.active]

end Tenant

/-- The tables that the counts run over are in their form (log 28). -/
structure State.Tabled (s : State) : Prop where
  tenants : tableWf Tenant.reset s.tenants = true
  lanes : tableWf Lane.reset s.lanes = true
  units : tableWf UnitRec.reset s.units = true

/-- A predicate that differs at one element alone counts at most one more in a list without repetition. -/
theorem countP_le_succ {α : Type} {p q : α → Bool} {l : List α} (hl : l.Nodup) (a : α) (h : ∀ b ∈ l, b ≠ a → q b = p b) :
    l.countP q ≤ l.countP p + 1 := by
  induction l with
  | nil => simp
  | cons b rest ih =>
    obtain ⟨hb, hrest⟩ := List.nodup_cons.mp hl
    by_cases e : b = a
    · have hsame : rest.countP q = rest.countP p := by
        refine List.countP_congr fun c hc => ?_
        rw [h c (List.mem_cons_of_mem _ hc) (fun ec => hb (by rw [e, ← ec]; exact hc))]
      rw [List.countP_cons, List.countP_cons, hsame]
      split <;> split <;> omega
    · have := ih hrest fun c hc => h c (List.mem_cons_of_mem _ hc)
      rw [List.countP_cons, List.countP_cons, h b (by simp) e]
      omega

/-- t differs from s in nothing that Coherent or Linked reads, save that frames may have left or gone on, and orders may have
been sent within the in-flight limit. -/
structure SameCore (s t : State) : Prop where
  tabled : s.Tabled → t.Tabled
  device : t.device = s.device
  settings : t.settings = s.settings
  recency : t.recency = s.recency
  laneWait : t.laneWait = s.laneWait
  parked : t.parked = s.parked
  unitWait : t.unitWait = s.unitWait
  pools : t.pools = s.pools
  tenants : ∀ n, (s.tenant n).Same (t.tenant n)
  bindings : ∀ n x, (t.stream n x).binding = (s.stream n x).binding
  lanes : ∀ l, (t.lane l).view = (s.lane l).view
  units : ∀ u, (t.unit u).view = (s.unit u).view
  came : ∀ g ∈ t.intake, ∃ f ∈ s.intake, SameFrame f g
  inFlight : ∀ g, s.inFlight g ≤ s.settings.groupLimit → t.inFlight g ≤ s.settings.groupLimit

namespace SameCore

/-- A state that holds the same tables, lists and frames. -/
theorem records {s t : State} (device : t.device = s.device := by rfl) (settings : t.settings = s.settings := by rfl)
    (tenants : t.tenants = s.tenants := by rfl) (streams : t.streams = s.streams := by rfl)
    (lanes : t.lanes = s.lanes := by rfl) (units : t.units = s.units := by rfl) (dies : t.dies = s.dies := by rfl)
    (pools : t.pools = s.pools := by rfl) (recency : t.recency = s.recency := by rfl)
    (laneWait : t.laneWait = s.laneWait := by rfl) (parked : t.parked = s.parked := by rfl)
    (unitWait : t.unitWait = s.unitWait := by rfl) (intake : t.intake = s.intake := by rfl) : SameCore s t where
  tabled h := ⟨tenants ▸ h.tenants, lanes ▸ h.lanes, units ▸ h.units⟩
  device := device
  settings := settings
  recency := recency
  laneWait := laneWait
  parked := parked
  unitWait := unitWait
  pools := pools
  tenants n := by rw [tenant_of_tenants tenants]; exact Tenant.Same.refl _
  bindings n x := by rw [stream_of_streams streams]
  lanes l := by rw [lane_of_lanes lanes]
  units u := by rw [unit_of_units units]
  came g hg := ⟨g, intake ▸ hg, SameFrame.refl g⟩
  inFlight g := by simp only [State.inFlight, State.die, dies, imp_self]

theorem refl (s : State) : SameCore s s := .records

theorem trans {s t u : State} (h : SameCore s t) (k : SameCore t u) : SameCore s u where
  tabled := k.tabled ∘ h.tabled
  device := k.device.trans h.device
  settings := k.settings.trans h.settings
  recency := k.recency.trans h.recency
  laneWait := k.laneWait.trans h.laneWait
  parked := k.parked.trans h.parked
  unitWait := k.unitWait.trans h.unitWait
  pools := k.pools.trans h.pools
  tenants n := (h.tenants n).trans (k.tenants n)
  bindings n x := (k.bindings n x).trans (h.bindings n x)
  lanes l := (k.lanes l).trans (h.lanes l)
  units u := (k.units u).trans (h.units u)
  came g hg := by
    obtain ⟨f, hf, hs⟩ := k.came g hg
    obtain ⟨e, he, hs'⟩ := h.came f hf
    exact ⟨e, he, hs'.trans hs⟩
  inFlight g hg := by
    have hlimit := k.inFlight g
    rw [h.settings] at hlimit
    exact hlimit (h.inFlight g hg)

/-! ### One record -/

theorem setTenant {s : State} {t : Nat} {v : Tenant} (hv : (s.tenant t).Same v) : SameCore s (s.setTenant t v) :=
  { refl s with
    tabled := fun h => ⟨tableWf_putRow _ _ _ _ h.tenants, h.lanes, h.units⟩
    tenants := fun n => by
      rw [setTenant_tenant]
      split
      · rename_i e
        exact e ▸ hv
      · exact Tenant.Same.refl _ }

theorem setStream {s : State} {t x : Nat} {v : StreamCtx} (hv : v.binding = (s.stream t x).binding) :
    SameCore s (s.setStream t x v) :=
  { refl s with
    tabled := fun h => ⟨h.tenants, h.lanes, h.units⟩
    bindings := fun n y => by
      rw [setStream_stream]
      split
      · rename_i e
        rw [hv, State.stream, State.stream, e]
      · rfl }

theorem setLane {s : State} {l : Nat} {v : Lane} (hv : v.view = (s.lane l).view) : SameCore s (s.setLane l v) :=
  { refl s with
    tabled := fun h => ⟨h.tenants, tableWf_putRow _ _ _ _ h.lanes, h.units⟩
    lanes := fun n => by
      rw [setLane_lane]
      split
      · rename_i e
        rw [hv, e]
      · rfl }

theorem setUnit {s : State} {u : Nat} {r : UnitRec} (hr : r.view = (s.unit u).view) : SameCore s (s.setUnit u r) :=
  { refl s with
    tabled := fun h => ⟨h.tenants, h.lanes, tableWf_putRow _ _ _ _ h.units⟩
    units := fun n => by
      rw [setUnit_unit]
      split
      · rename_i e
        rw [hr, e]
      · rfl }

/-- A die that is written keeps the in-flight limit, unless it becomes BUSY in a group at its limit (R102). -/
theorem setDie {s : State} {d : Nat} {v : Die}
    (hv : v.busy.isSome = true → (s.die d).busy.isSome = true ∨ s.inFlight (groupOf d) < s.settings.groupLimit) :
    SameCore s (s.setDie d v) :=
  { refl s with
    tabled := fun h => ⟨h.tenants, h.lanes, h.units⟩
    inFlight := fun g hg => by
      have hkeep : ∀ i, Config.groupDies * g + i ≠ d → ((s.setDie d v).die (Config.groupDies * g + i)).busy.isSome =
          (s.die (Config.groupDies * g + i)).busy.isSome := fun i hi => by
        rw [setDie_die, if_neg hi]
      by_cases hb : v.busy.isSome = true ∧ (s.die d).busy.isSome = false
      · by_cases hgroup : g = groupOf d
        · have hlt := (hv hb.1).resolve_left (by simp [hb.2])
          rw [← hgroup] at hlt
          refine le_trans (countP_le_succ List.nodup_range (d - Config.groupDies * g) fun i _ hi => hkeep i ?_) hlt
          omega
        · refine le_trans (le_of_eq (List.countP_congr fun i hi => ?_)) hg
          rw [hkeep i]
          intro e
          have hlt : i < 8 := by simpa [Config.groupDies] using hi
          refine hgroup ?_
          simp only [groupOf, Config.groupDies] at e ⊢
          omega
      · refine le_trans (List.countP_mono_left fun i _ hi => ?_) hg
        rw [setDie_die] at hi
        split at hi
        · rename_i e
          rw [e]
          rw [not_and, Bool.not_eq_false] at hb
          exact hb hi
        · exact hi }

section
variable {q s : State} (h : SameCore q s)
include h

theorem modTenant {t f} (hf : ∀ v : Tenant, v.Same (f v) := by exact fun _ => ⟨rfl, rfl, rfl, rfl, rfl, rfl⟩) :
    SameCore q (s.modTenant t f) := h.trans (.setTenant (hf _))

theorem modTenantCounters {t f} : SameCore q (s.modTenantCounters t f) := h.modTenant

theorem modStream {t x f} (hf : ∀ v : StreamCtx, (f v).binding = v.binding := by exact fun _ => rfl) :
    SameCore q (s.modStream t x f) :=
  h.trans (.setStream (hf _))

theorem modLane {l f} (hf : ∀ v : Lane, (f v).view = v.view := by exact fun _ => rfl) :
    SameCore q (s.modLane l f) := h.trans (.setLane (hf _))

theorem modHalf {l k f} : SameCore q (s.modHalf l k f) := h.modLane fun v => by cases k <;> rfl

theorem modUnit {u f} (hf : ∀ r : UnitRec, (f r).view = r.view := by exact fun _ => rfl) :
    SameCore q (s.modUnit u f) := h.trans (.setUnit (hf _))

/-- A die queue is rewritten. -/
theorem modDie {d f} (hf : ∀ v : Die, (f v).busy = v.busy := by exact fun _ => rfl) :
    SameCore q (s.modDie d f) :=
  h.trans (.setDie fun hb => .inl (by rwa [hf] at hb))

theorem modCounters {f} : SameCore q (s.modCounters f) := h.trans .records
theorem raiseHead {t} : SameCore q (s.raiseHead t) := h.trans .records
theorem raiseService : SameCore q s.raiseService := h.trans .records
theorem raiseCheck : SameCore q s.raiseCheck := h.trans .records
theorem raiseFreed {l} : SameCore q (s.raiseFreed l) := h.trans .records
theorem reply {tag status body} : SameCore q (s.reply tag status body) := h.trans .records

theorem post {src kind d} : SameCore q (s.post src kind d) := by
  obtain ⟨n, a, e⟩ := post_eq s src kind d
  rw [e]
  exact h.trans .records

theorem modHead {t g} (hg : ∀ f, SameFrame f (g f) := by exact fun _ => ⟨rfl, rfl, rfl, rfl, rfl, rfl⟩) :
    SameCore q (s.modHead t g) :=
  h.trans { refl s with
    tabled := fun h => ⟨h.tenants, h.lanes, h.units⟩
    came := (modFirst_keeps t g hg s.intake).2.1 }

theorem dropHead {t} : SameCore q (s.dropHead t) :=
  h.trans { refl s with
    tabled := fun h => ⟨h.tenants, h.lanes, h.units⟩
    came := fun g hg => ⟨g, List.mem_of_mem_eraseP hg, SameFrame.refl g⟩ }

theorem foldl {α : Type} {f : State → α → State} (hf : ∀ p a, SameCore q p → SameCore q (f p a)) (l : List α) :
    SameCore q (l.foldl f s) := foldl_closed hf l h

/-! ### Frames -/

theorem refund {f} : SameCore q (s.refund f) := by
  refine ite_keeps (h.modTenant fun v => ?_) h
  split <;> exact ⟨rfl, rfl, rfl, rfl, rfl, rfl⟩

theorem endFrames {p status order} : SameCore q (s.endFrames p status order) := by
  have hleft : SameCore q { s with intake := s.intake.filter (fun f => !p f) } :=
    h.trans { refl s with
    tabled := fun h => ⟨h.tenants, h.lanes, h.units⟩
    came := fun g hg => ⟨g, (List.mem_filter.mp hg).1, SameFrame.refl g⟩ }
  exact foldl_closed (fun _ _ hp => hp.refund.reply) _ hleft

theorem noSpaceReport {t x} : SameCore q (s.noSpaceReport t x) := h.endFrames.modTenantCounters.post.raiseHead

theorem abortQueue {t} : SameCore q (s.abortQueue t) := h.endFrames

theorem headAt {t step} : SameCore q (s.headAt t step) := h.modHead

theorem serveAgain {t} : SameCore q (s.serveAgain t) := by
  refine (h.modHead fun f => ?_).raiseHead
  unfold Frame.again
  split <;> exact ⟨rfl, rfl, rfl, rfl, rfl, rfl⟩

theorem waitForCredit {t f} : SameCore q (s.waitForCredit t f) := by
  have hwait : SameCore q (s.modHead t (fun g => { g with step := .credit, creditWaited := true })) := h.modHead
  exact ite_keeps hwait hwait.modTenantCounters

theorem creditStep {t f} : SameCore q (s.creditStep t f) := by
  unfold State.creditStep
  split_ifs
  · exact h.headAt
  · exact h.modHead
  · exact h.modTenant.modHead
  · exact h.waitForCredit

theorem noteBound {t x} : SameCore q (s.noteBound t x) := by
  refine ite_keeps (h.modHead fun f => ?_) h
  split <;> exact ⟨rfl, rfl, rfl, rfl, rfl, rfl⟩

theorem acceptHead {t} : SameCore q (s.acceptHead t) := by
  unfold State.acceptHead
  split
  · exact h
  · exact h.modTenantCounters.modStream.reply.dropHead.raiseHead

/-! ### Media -/

theorem scanTrigger : SameCore q s.scanTrigger := ite_keeps (h.trans .records) h.modCounters

theorem reserve {l k} : SameCore q (s.reserve l k) := ite_keeps h (h.trans .records)

/-- An order is on its way (R104). -/
theorem sent {g n l} :
    SameCore q { s with groupPos := putRow 0 s.groupPos g n, ordersSent := l, mdlRst := false } := h.trans .records

/-- An eligible die is sent its order within the in-flight limit (R102, R103). -/
theorem dispatch {d} (he : s.eligible d = true) : SameCore q (s.dispatch d) := by
  have hlimit : s.inFlight (groupOf d) < s.settings.groupLimit := by
    unfold State.eligible at he
    split at he
    · cases he
    · simp only [Bool.and_eq_true, decide_eq_true_eq] at he
      exact he.1.2
  unfold State.dispatch
  split
  · exact h
  · rename_i e rest _
    rcases e with ⟨l, k⟩ | ⟨u⟩
    · have hflight : (s.reserve l k).inFlight (groupOf d) < (s.reserve l k).settings.groupLimit := by
        unfold State.reserve
        split <;> exact hlimit
      exact (h.reserve.trans (.setDie fun _ => .inr hflight)).modHalf.sent
    · exact (h.trans (.setDie fun _ => .inr hlimit)).sent

theorem joinDie {d e} : SameCore q (s.joinDie d e) := by
  have hjoined : SameCore q (s.modDie d (fun v => { v with queue := (s.die d).queue ++ [e] })) := h.modDie
  unfold State.joinDie
  dsimp only
  split
  · rename_i he
    rw [Bool.and_eq_true] at he
    exact hjoined.dispatch he.2
  · exact hjoined

theorem grantGroup {g n} : SameCore q (State.grantGroup g n s) := by
  induction n generalizing s with
  | zero => exact h
  | succ n ih =>
    unfold State.grantGroup
    split
    · rename_i hd
      exact ih (h.dispatch (List.find?_some hd))
    · exact h

theorem endOrder {d} : SameCore q (s.endOrder d) := by
  have hidle : SameCore q (s.modDie d (fun v => { v with busy := none })) := h.trans (.setDie fun hb => by cases hb)
  exact (hidle.trans .records).grantGroup

theorem grantRoom : SameCore q s.grantRoom := by
  unfold State.grantRoom
  dsimp only
  split
  · rename_i hd
    have hw := List.find?_some hd
    unfold State.wantsRoom at hw
    rw [Bool.and_eq_true] at hw
    exact (h.dispatch hw.1).trans .records
  · exact h

theorem requestSeal {u} : SameCore q (s.requestSeal u) := ite_keeps h h.joinDie

theorem lowWaterCheck {g} : SameCore q (s.lowWaterCheck g) := ite_keeps (ite_keeps h.post.scanTrigger h.post) h

/-! ### Halves -/

theorem dropEmptyFilling {l} : SameCore q (s.dropEmptyFilling l) := by
  unfold State.dropEmptyFilling
  split
  · exact ite_keeps h.modHalf h
  · exact h

theorem refillOther {l k} : SameCore q (s.refillOther l k) := ite_keeps h.modHalf h

theorem assignHalf {l k u n} : SameCore q (s.assignHalf l k u n) :=
  h.modHalf.modLane.modUnit.joinDie

theorem markFirst {l k} : SameCore q (s.markFirst l k) := ite_keeps h.modLane h

theorem lowerFlush {lost slot} : SameCore q (State.lowerFlush lost s slot) := by
  unfold State.lowerFlush
  split
  · exact h
  · exact ite_keeps (h.trans .records) (h.trans .records)

theorem emptyHalf {l k lost} : SameCore q (s.emptyHalf l k lost) := foldl_closed (fun _ _ hp => hp.lowerFlush) _ h.modHalf

theorem loseHalf {l k} : SameCore q (State.loseHalf l s k) := by
  have hcounted : SameCore q (({ s with lost := bump s.lost (s.half l k).realCount } : State).modCounters
      (fun c => { c with sectorsLost := bump c.sectorsLost (s.half l k).realCount })) := h.trans .records
  exact ite_keeps (hcounted.emptyHalf.trans .records).grantRoom hcounted.emptyHalf

theorem releaseFailed {l k u} : SameCore q (s.releaseFailed l k u) := by
  unfold State.releaseFailed
  dsimp only
  refine SameCore.modLane (ite_keeps h.modHalf.modDie.modHalf h.modHalf) fun v => ?_
  split
  · split <;> rfl
  · rfl

theorem displaceParked {t x} : SameCore q (State.displaceParked t s x) := by
  unfold State.displaceParked
  split
  · exact h.modStream.requestSeal
  · exact h

theorem countEviction {t} : SameCore q (s.countEviction t) := h.modTenant

theorem stopTimer {t} : SameCore q (s.stopTimer t) := by
  refine ite_keeps (h.modTenant fun v => ⟨rfl, rfl, rfl, rfl, rfl, ?_⟩) h
  cases v.drain <;> rfl

theorem fillEntry {l k t x extents} : SameCore q (s.fillEntry l k t x extents) := h.trans .records

theorem recordPlaced {l k t x u n} : SameCore q (s.recordPlaced l k t x u n) := by
  unfold State.recordPlaced
  exact h.modUnit.fillEntry.modTenantCounters.modStream

/-! ### Notices, scans and epochs -/

theorem discardFrame : SameCore q s.discardFrame := h.modCounters.post

theorem staleReport : SameCore q s.staleReport := h.modCounters.post

theorem withScan {scan} : SameCore q { s with scan := scan } := h.trans .records

theorem continuousScan : SameCore q s.continuousScan := ite_keeps (h.trans .records) h

theorem completeScan : SameCore q s.completeScan := by
  have hlist : SameCore q { s with nominations := s.working.map (fun e => ⟨e, false⟩), working := [] } := h.trans .records
  have hposted := hlist.post (src := Config.deviceSource) (kind := .nominationsReady) (d := BitVec.ofNat 32 s.working.length)
  have hdone := hposted.withScan (scan := none)
  exact ite_keeps hdone.continuousScan hdone

theorem visitNext {sc} : SameCore q (s.visitNext sc) := by
  have hvisit : SameCore q (s.visitUnit sc) := ite_keeps (h.trans .records) (h.trans .records)
  exact ite_keeps hvisit hvisit.completeScan

theorem sample {t source x} : SameCore q (s.sample t source x) := by
  refine ite_keeps ?_ h
  unfold State.classifySample
  exact ite_keeps h.modTenant.post h.modTenant

theorem boundaryTenant {t} : SameCore q (s.boundaryTenant t) := by
  have hsamples : SameCore q (s.boundarySamples t) := (ite_keeps h h.sample).sample
  have hrefill : SameCore q ((s.boundarySamples t).modTenant t (fun v => { v.refill with epochEvictions := 0 })) := by
    refine hsamples.modTenant fun v => ?_
    unfold Tenant.refill
    split <;> exact ⟨rfl, rfl, rfl, rfl, rfl, rfl⟩
  unfold State.boundaryTenant
  dsimp only
  split
  · exact ite_keeps hrefill.raiseHead hrefill
  · exact hrefill

theorem repetition {forced} : SameCore q (s.repetition forced) := by
  have hagain : SameCore q { s with scanCount := s.settings.scanRepetition } := h.trans .records
  exact ite_keeps (ite_keeps hagain.scanTrigger hagain) (h.trans .records)

theorem epochNotice {quiet} : SameCore q (s.epochNotice quiet) := ite_keeps h.post h

/-- A boundary moves seal epochs alone (R127). -/
theorem ageUnits {e} : SameCore q (s.ageUnits e) := by
  have hreset : ageUnit e UnitRec.reset = UnitRec.reset := if_neg (by simp [UnitRec.reset])
  have hview : ∀ r : UnitRec, (ageUnit e r).view = r.view := fun r => by
    unfold ageUnit
    split <;> rfl
  refine h.trans { refl s with tabled := fun ht => ⟨ht.tenants, ht.lanes, ?_⟩, units := fun u => ?_ }
  · refine tableWf_map _ _ _ (fun v hv he => hv ?_) ht.units
    unfold ageUnit at he
    split at he
    · rename_i hs
      simp only [Bool.and_eq_true, decide_eq_true_eq] at hs
      have := congrArg UnitRec.state he
      simp [UnitRec.reset, hs.1] at this
    · exact he
  · have hrow : (s.ageUnits e).unit u = ageUnit e (s.unit u) := rowOf_map UnitRec.reset s.units (ageUnit e) hreset u
    rw [hrow, hview]

end

end SameCore

end Sys2Proof.Machine

/-! ## Sound states

Coherent and Linked hold between commands. Inside an event an entry may be late: a lane that has just been bound has no unit
and no place in the unit wait queue yet, a stream has left the lane wait queue and is not bound yet, a tenant has more lanes
than its new quota, or the final close of a tenant has been taken and its lanes are not closed yet. `State.Sound` says
Coherent, and under L also Linked but for its first clause, with an allowance for these. L is False for the first invariant
and True for the second, so that the internal events are followed once for both. -/

namespace Sys2Proof.Machine

/-- The stream that a lane holds: the one it names while it is bound. -/
def Lane.held (v : Lane) : Option (Nat × Nat) := if v.isBound then v.stream else none

theorem Lane.held_eq_some {v : Lane} {p : Nat × Nat} : v.held = some p ↔ v.isBound = true ∧ v.stream = some p := by
  unfold Lane.held
  split <;> simp [*]

theorem Lane.held_of_not_bound {v : Lane} (h : v.isBound = false) : v.held = none := by
  unfold Lane.held
  rw [h]
  rfl

theorem Lane.held_congr {v w : Lane} (h : w.view = v.view) : w.held = v.held := by
  unfold Lane.held
  rw [Lane.isBound_congr h, (Lane.view_eq.mp h).2]

/-- A lane counts for a tenant by the stream it holds. -/
theorem Lane.counts_eq (v : Lane) (t : Nat) : (v.isBound && v.belongsTo t) = v.held.any (fun p => p.1 = t) := by
  unfold Lane.held Lane.belongsTo
  cases v.isBound <;> cases v.stream <;> rfl

/-- What may be late, and what is known of the lanes. -/
structure Allow where
  /-- a stream that is about to be bound or to wait for a lane, and may be WAITING without a place in the lane wait queue -/
  late : Option (Nat × Nat) := none
  /-- a tenant whose final close is under way: it is no longer open, and may have lanes bound and streams waiting -/
  shut : Option Nat := none
  /-- how many bound lanes each tenant may have above its quota -/
  excess : Nat → Int := fun _ => 0
  /-- what is known of the stream that each lane holds -/
  view : Nat → Option (Nat × Nat) → Prop := fun _ _ => True

/-- The bound lanes that name a stream of tenant t. -/
def State.boundCount (s : State) (t : Nat) : Nat := tableSum (fun v : Lane => (v.isBound && v.belongsTo t).toNat) s.lanes

/-- The PARKED units. -/
def State.parkedCount (s : State) : Nat := tableSum (fun r : UnitRec => (decide (r.state = .parked)).toNat) s.units

/-- The units that count as owned by tenant t. -/
def State.ownedCount (s : State) (t : Nat) : Nat := tableSum (fun r : UnitRec => (r.ownedBy t).toNat) s.units

/-- What a tenant adds to the floor sum (R25). -/
def Tenant.weight (v : Tenant) : Nat := if v.state = .vacant then 0 else v.reservation

theorem floorSum_eq (s : State) : s.floorSum = tableSum Tenant.weight s.tenants := rfl

/-- Linked but for its first clause, with an allowance. -/
structure State.LinkedBut (e : Allow) (s : State) : Prop where
  intake : s.device ≠ .running → s.intake = []
  frames : ∀ f ∈ s.intake, f.stream < 8 ∧ (s.tenant f.tenant).isOpen = true
  laneWait : ∀ t x, (t, x) ∈ s.laneWait →
    x < 8 ∧ (s.stream t x).binding = .waiting ∧ (e.shut ≠ some t → (s.tenant t).isOpen = true)
  boundLane : ∀ l t x, (s.lane l).held = some (t, x) →
    x < 8 ∧ (s.stream t x).binding = .bound l ∧ (e.shut ≠ some t → (s.tenant t).isOpen = true)
  boundStream : ∀ t x l, x < 8 → (s.stream t x).binding = .bound l → (s.lane l).held = some (t, x)
  laneOwner : ∀ l t x, (s.lane l).stream = some (t, x) →
    x < 8 ∧ ((s.tenant t).isServed = true ∨ (s.tenant t).state = .draining)
  quota : s.device ≠ .holding → ∀ t, ((s.tenant t).bound : Int) ≤ (s.tenant t).active.laneQuota + e.excess t
  inFlight : ∀ g, s.inFlight g ≤ s.settings.groupLimit
  /-- no record gives a quota of 0 (R23) -/
  records : ∀ t, 1 ≤ (s.tenant t).active.laneQuota ∧ ∀ p, (s.tenant t).pendingPolicy = some p → 1 ≤ p.laneQuota
  late : ∀ t x, e.late = some (t, x) → x < 8 ∧ (∀ l, (s.stream t x).binding ≠ .bound l) ∧ (t, x) ∉ s.laneWait
    ∧ (e.shut ≠ some t → (s.tenant t).isOpen = true)

/-- Coherent, and under L also LinkedBut, with an allowance; lane w in UNIT_WAIT may lack its place in the unit wait queue.
Under C the part has been started and not been reset since. -/
structure State.Sound (C L : Prop) (e : Allow) (w : Option Nat) (s : State) : Prop where
  tabled : s.Tabled
  recencyOnce : s.recency.Nodup
  recency : ∀ l, l ∈ s.recency ↔ (s.lane l).isBound = true
  named : ∀ l, (s.lane l).state ≠ .free → (s.lane l).stream ≠ none
  bound : ∀ t, (s.tenant t).bound = s.boundCount t
  laneWaitOnce : s.laneWait.Nodup
  waiting : ∀ t x, (s.stream t x).binding = .waiting → (∀ p, e.late = some p → streamKey t x ≠ streamKey p.1 p.2) →
    ∃ e ∈ s.laneWait, streamKey e.1 e.2 = streamKey t x
  unitWaitOnce : s.unitWait.Nodup
  unitWait : ∀ l, w ≠ some l → (s.lane l).state = .unitWait → l ∈ s.unitWait
  pools : ∀ u g, (s.pool g).count u = if (s.unit u).state = .free ∧ g = poolOf u then 1 else 0
  parked : s.parked = s.parkedCount
  owned : ∀ t, (s.tenant t).owned = s.ownedCount t
  floors : s.floorSum ≤ Config.floorLimit
  view : ∀ l, e.view l (s.lane l).held
  started : C → s.device ≠ .config
  linked : L → s.LinkedBut e

/-! ### The counts -/

theorem boundCount_change {s t : State} (hs : s.Tabled) (ht : t.Tabled) (l : Nat)
    (h : ∀ k, k ≠ l → (t.lane k).held = (s.lane k).held) (n : Nat) :
    t.boundCount n + ((s.lane l).held.any (fun p => p.1 = n)).toNat =
      s.boundCount n + ((t.lane l).held.any (fun p => p.1 = n)).toNat := by
  rw [← Lane.counts_eq, ← Lane.counts_eq]
  refine tableSum_change (w := fun v : Lane => (v.isBound && v.belongsTo n).toNat) rfl hs.lanes ht.lanes l fun k hk => ?_
  rw [show rowOf Lane.reset t.lanes k = t.lane k from rfl, show rowOf Lane.reset s.lanes k = s.lane k from rfl,
    Lane.counts_eq, Lane.counts_eq, h k hk]

theorem boundCount_congr {s t : State} (hs : s.Tabled) (ht : t.Tabled) (h : ∀ k, (t.lane k).held = (s.lane k).held)
    (n : Nat) : t.boundCount n = s.boundCount n :=
  tableSum_congr (w := fun v : Lane => (v.isBound && v.belongsTo n).toNat) rfl hs.lanes ht.lanes fun k => by
    rw [show rowOf Lane.reset t.lanes k = t.lane k from rfl, show rowOf Lane.reset s.lanes k = s.lane k from rfl,
      Lane.counts_eq, Lane.counts_eq, h k]

/-- A tenant with a count above 0 has a bound lane. -/
theorem exists_held_of_boundCount {s : State} (hs : s.Tabled) {n : Nat} (h : s.boundCount n ≠ 0) :
    ∃ l x, (s.lane l).held = some (n, x) := by
  by_contra hno
  refine h (tableSum_zero (w := fun v : Lane => (v.isBound && v.belongsTo n).toNat) rfl hs.lanes fun l => ?_)
  rw [Lane.counts_eq, show rowOf Lane.reset s.lanes l = s.lane l from rfl]
  cases hl : (s.lane l).held with
  | none => rfl
  | some p =>
    have hp : p.1 ≠ n := fun e => hno ⟨l, p.2, by rw [hl, ← e]⟩
    simp [hp]

theorem boundCount_pos {s : State} (hs : s.Tabled) {l t x : Nat} (h : (s.lane l).held = some (t, x)) : 0 < s.boundCount t :=
  tableSum_pos (w := fun v : Lane => (v.isBound && v.belongsTo t).toNat) rfl hs.lanes (n := l) (by
    rw [Lane.counts_eq, show rowOf Lane.reset s.lanes l = s.lane l from rfl, h]
    simp)

theorem parkedCount_pos {s : State} (hs : s.Tabled) {u : Nat} (h : (s.unit u).state = .parked) : 0 < s.parkedCount :=
  tableSum_pos (w := fun r : UnitRec => (decide (r.state = .parked)).toNat) rfl hs.units (n := u) (by
    rw [show rowOf UnitRec.reset s.units u = s.unit u from rfl, h]
    decide)

theorem ownedCount_pos {s : State} (hs : s.Tabled) {u t : Nat} (h : (s.unit u).ownedBy t = true) : 0 < s.ownedCount t :=
  tableSum_pos (w := fun r : UnitRec => (r.ownedBy t).toNat) rfl hs.units (n := u) (by
    rw [show rowOf UnitRec.reset s.units u = s.unit u from rfl, h]
    decide)

theorem parkedCount_change {s t : State} (hs : s.Tabled) (ht : t.Tabled) (u : Nat)
    (h : ∀ k, k ≠ u → (t.unit k).view = (s.unit k).view) :
    t.parkedCount + (decide ((s.unit u).state = .parked)).toNat =
      s.parkedCount + (decide ((t.unit u).state = .parked)).toNat :=
  tableSum_change (w := fun r : UnitRec => (decide (r.state = .parked)).toNat) rfl hs.units ht.units u fun k hk => by
    rw [show rowOf UnitRec.reset t.units k = t.unit k from rfl, show rowOf UnitRec.reset s.units k = s.unit k from rfl,
      (UnitRec.view_eq.mp (h k hk)).1]

theorem ownedCount_change {s t : State} (hs : s.Tabled) (ht : t.Tabled) (u : Nat)
    (h : ∀ k, k ≠ u → (t.unit k).view = (s.unit k).view) (n : Nat) :
    t.ownedCount n + ((s.unit u).ownedBy n).toNat = s.ownedCount n + ((t.unit u).ownedBy n).toNat :=
  tableSum_change (w := fun r : UnitRec => (r.ownedBy n).toNat) rfl hs.units ht.units u fun k hk => by
    rw [show rowOf UnitRec.reset t.units k = t.unit k from rfl, show rowOf UnitRec.reset s.units k = s.unit k from rfl,
      UnitRec.ownedBy_congr (h k hk)]

theorem floorSum_change {s t : State} (hs : s.Tabled) (ht : t.Tabled) (n : Nat)
    (h : ∀ k, k ≠ n → (t.tenant k).weight = (s.tenant k).weight) :
    t.floorSum + (s.tenant n).weight = s.floorSum + (t.tenant n).weight :=
  tableSum_change (w := Tenant.weight) rfl hs.tenants ht.tenants n h

theorem Tenant.Same.weight {v w : Tenant} (h : v.Same w) : w.weight = v.weight := by
  unfold Tenant.weight
  rw [h.state, h.reservation]

/-! ### What no list, count or link reads -/

/-- t agrees with s in what the lanes, the streams and the tenants say of one another; the units and the pools, and the counts
of them, may differ. -/
structure SameLinks (s t : State) : Prop where
  tabled : s.Tabled → t.Tabled
  device : t.device = s.device
  settings : t.settings = s.settings
  recency : t.recency = s.recency
  laneWait : t.laneWait = s.laneWait
  unitWait : t.unitWait = s.unitWait
  tenants : ∀ n, (s.tenant n).Same { t.tenant n with owned := (s.tenant n).owned }
  bindings : ∀ n x, (t.stream n x).binding = (s.stream n x).binding
  lanes : ∀ l, (t.lane l).view = (s.lane l).view
  came : ∀ g ∈ t.intake, ∃ f ∈ s.intake, SameFrame f g
  inFlight : ∀ g, s.inFlight g ≤ s.settings.groupLimit → t.inFlight g ≤ s.settings.groupLimit

theorem SameCore.links {s t : State} (h : SameCore s t) : SameLinks s t where
  tabled := h.tabled
  device := h.device
  settings := h.settings
  recency := h.recency
  laneWait := h.laneWait
  unitWait := h.unitWait
  tenants n := { h.tenants n with owned := rfl }
  bindings := h.bindings
  lanes := h.lanes
  came := h.came
  inFlight := h.inFlight

theorem SameLinks.intake_nil {s t : State} (k : SameLinks s t) (h : s.intake = []) : t.intake = [] := by
  refine List.eq_nil_iff_forall_not_mem.mpr fun g hg => ?_
  obtain ⟨f, hf, -⟩ := k.came g hg
  rw [h] at hf
  cases hf

theorem SameLinks.isOpen {s t : State} (k : SameLinks s t) (n : Nat) : (t.tenant n).isOpen = (s.tenant n).isOpen :=
  (k.tenants n).isOpen

theorem State.LinkedBut.of_links {e : Allow} {s t : State} (h : s.LinkedBut e) (k : SameLinks s t) : t.LinkedBut e where
  intake hd := k.intake_nil (h.intake (k.device ▸ hd))
  frames g hg := by
    obtain ⟨f, hf, hs⟩ := k.came g hg
    rw [hs.stream, hs.tenant, k.isOpen]
    exact h.frames f hf
  laneWait n x hm := by
    rw [k.bindings, k.isOpen]
    exact h.laneWait n x (k.laneWait ▸ hm)
  boundLane l n x hb := by
    rw [k.bindings, k.isOpen]
    exact h.boundLane l n x (Lane.held_congr (k.lanes l) ▸ hb)
  boundStream n x l hx hb := by
    rw [Lane.held_congr (k.lanes l)]
    exact h.boundStream n x l hx (k.bindings n x ▸ hb)
  laneOwner l n x hs := by
    have hserved : (t.tenant n).isServed = (s.tenant n).isServed := (k.tenants n).isServed
    have hstate : (t.tenant n).state = (s.tenant n).state := (k.tenants n).state
    rw [hserved, hstate]
    exact h.laneOwner l n x ((Lane.view_eq.mp (k.lanes l)).2 ▸ hs)
  quota hd n := by
    have hb : (t.tenant n).bound = (s.tenant n).bound := (k.tenants n).bound
    have ha : (t.tenant n).active = (s.tenant n).active := (k.tenants n).active
    rw [hb, ha]
    exact h.quota (k.device ▸ hd) n
  inFlight g := by
    rw [k.settings]
    exact k.inFlight g (h.inFlight g)
  records n := by
    have ha : (t.tenant n).active = (s.tenant n).active := (k.tenants n).active
    have hp : (t.tenant n).pendingPolicy = (s.tenant n).pendingPolicy := (k.tenants n).pendingPolicy
    rw [ha, hp]
    exact h.records n
  late n x hl := by
    rw [k.bindings, k.laneWait, k.isOpen]
    exact h.late n x hl

namespace State.Sound

variable {C L : Prop} {e : Allow} {w : Option Nat} {s t : State}

/-- A change of units and pools with the counts that go with it. -/
theorem of_links (h : s.Sound C L e w) (k : SameLinks s t)
    (pools : ∀ u g, (t.pool g).count u = if (t.unit u).state = .free ∧ g = poolOf u then 1 else 0)
    (parked : t.parked = t.parkedCount) (owned : ∀ n, (t.tenant n).owned = t.ownedCount n) : t.Sound C L e w where
  tabled := k.tabled h.tabled
  recencyOnce := k.recency ▸ h.recencyOnce
  recency l := by
    rw [k.recency, Lane.isBound_congr (k.lanes l)]
    exact h.recency l
  named l := by
    obtain ⟨hs, hn⟩ := Lane.view_eq.mp (k.lanes l)
    rw [hs, hn]
    exact h.named l
  bound n := by
    have hb : (t.tenant n).bound = (s.tenant n).bound := (k.tenants n).bound
    rw [hb, h.bound, boundCount_congr h.tabled (k.tabled h.tabled)]
    exact fun l => Lane.held_congr (k.lanes l)
  laneWaitOnce := k.laneWait ▸ h.laneWaitOnce
  waiting n x hb := by
    rw [k.laneWait]
    exact h.waiting n x (k.bindings n x ▸ hb)
  unitWaitOnce := k.unitWait ▸ h.unitWaitOnce
  unitWait l hl hs := k.unitWait ▸ h.unitWait l hl ((Lane.view_eq.mp (k.lanes l)).1 ▸ hs)
  pools := pools
  parked := parked
  owned := owned
  floors := by
    have hsum : t.floorSum = s.floorSum :=
      tableSum_congr (w := Tenant.weight) rfl h.tabled.tenants (k.tabled h.tabled).tenants fun n => (k.tenants n).weight
    exact hsum ▸ h.floors
  view l := Lane.held_congr (k.lanes l) ▸ h.view l
  started hc := k.device ▸ h.started hc
  linked hL := (h.linked hL).of_links k

/-- What no list, count or link reads changes nothing. -/
theorem core (h : s.Sound C L e w) (k : SameCore s t) : t.Sound C L e w := by
  refine h.of_links k.links (fun u g => ?_) ?_ fun n => ?_
  · rw [pool_of_pools k.pools, (UnitRec.view_eq.mp (k.units u)).1]
    exact h.pools u g
  · rw [k.parked, h.parked]
    exact (tableSum_congr (w := fun r : UnitRec => (decide (r.state = .parked)).toNat) rfl h.tabled.units
      (k.tabled h.tabled).units fun u => by
        rw [show rowOf UnitRec.reset t.units u = t.unit u from rfl, (UnitRec.view_eq.mp (k.units u)).1]
        rfl).symm
  · rw [(k.tenants n).owned, h.owned]
    exact (tableSum_congr (w := fun r : UnitRec => (r.ownedBy n).toNat) rfl h.tabled.units
      (k.tabled h.tabled).units fun u => by
        rw [show rowOf UnitRec.reset t.units u = t.unit u from rfl, UnitRec.ownedBy_congr (k.units u)]
        rfl).symm

end State.Sound

end Sys2Proof.Machine

/-! ## One move at a time

The moves that do change what the lists, counts and links read: a lane takes another state, a stream lets go of its lane or is
bound to one, a unit changes hands, a tenant context is rewritten, a queue is joined or left. -/

namespace Sys2Proof.Machine

theorem Lane.isBound_iff (v : Lane) : v.isBound = true ↔ v.state = .unitWait ∨ v.state = .active := by
  unfold Lane.isBound
  simp

theorem Lane.isBound_of_state {v : Lane} {st : LaneState} (h : v.state = st) (hu : st ≠ .unitWait) (ha : st ≠ .active) :
    v.isBound = false := by
  rw [← Bool.not_eq_true, isBound_iff, h, not_or]
  exact ⟨hu, ha⟩

theorem Lane.not_unitWait_of_not_bound {v : Lane} (h : v.isBound = false) : v.state ≠ .unitWait := fun hs => by
  rw [(isBound_iff v).mpr (.inl hs)] at h
  cases h

namespace State.Sound

variable {C L : Prop} {e : Allow} {w : Option Nat} {s : State}

/-- A bound lane names a stream. -/
theorem held_ne_none (h : s.Sound C L e w) {l : Nat} (hb : (s.lane l).isBound = true) : (s.lane l).held ≠ none := by
  unfold Lane.held
  rw [if_pos hb]
  refine h.named l fun hf => ?_
  rcases (Lane.isBound_iff _).mp hb with hs | hs <;> rw [hs] at hf <;> cases hf

theorem held_eq_none (h : s.Sound C L e w) {l : Nat} : (s.lane l).held = none ↔ (s.lane l).isBound = false := by
  constructor
  · intro hn
    rw [← Bool.not_eq_true]
    exact fun hb => h.held_ne_none hb hn
  · exact Lane.held_of_not_bound

/-! ### The allowance -/

/-- The late lane has found its place. -/
theorem placed {l : Nat} (h : s.Sound C L e (some l)) (hl : (s.lane l).state = .unitWait → l ∈ s.unitWait) : s.Sound C L e none :=
  { h with
    unitWait := fun k _ hk => by
      by_cases hkl : k = l
      · rw [hkl] at hk ⊢
        exact hl hk
      · exact h.unitWait k (fun e => hkl (Option.some.inj e).symm) hk }

/-- A lane may be late. -/
theorem mayWait {l : Nat} (h : s.Sound C L e w) (hw : w = none ∨ w = some l) : s.Sound C L e (some l) :=
  { h with
    unitWait := fun k hk hs => h.unitWait k (by
      rcases hw with rfl | rfl
      · exact nofun
      · exact hk) hs }

/-- What is known of the lanes, and of the quotas, is put in other words. -/
theorem ease (h : s.Sound C L e w) {V : Nat → Option (Nat × Nat) → Prop} {X : Nat → Int}
    (hX : L → s.device ≠ .holding → ∀ n, ((s.tenant n).bound : Int) ≤ (s.tenant n).active.laneQuota + X n)
    (hV : ∀ l, V l (s.lane l).held) : s.Sound C L { e with excess := X, view := V } w :=
  { h with
    view := hV
    linked := fun hL => { h.linked hL with quota := hX hL } }

/-- A stream is about to be bound, or to wait for a lane. -/
theorem expect (h : s.Sound C L e w) (he : e.late = none) {t x : Nat}
    (hl : L → x < 8 ∧ (∀ l, (s.stream t x).binding ≠ .bound l) ∧ (t, x) ∉ s.laneWait
      ∧ (e.shut ≠ some t → (s.tenant t).isOpen = true)) : s.Sound C L { e with late := some (t, x) } w :=
  { h with
    waiting := fun n y hb _ => h.waiting n y hb (by simp [he])
    linked := fun hL => { h.linked hL with
      late := fun n y hn => by
        cases hn
        exact hl hL } }

/-- A final close has been made. -/
theorem closed (h : s.Sound C L e w) {t : Nat} (he : e.shut = some t) (hl : e.late = none)
    (hh : L → ∀ l x, (s.lane l).held ≠ some (t, x)) (hw : L → ∀ x, (t, x) ∉ s.laneWait) :
    s.Sound C L { e with shut := none } w :=
  { h with
    linked := fun hL =>
      have k := h.linked hL
      { k with
        laneWait := fun n x hn =>
          have hne : e.shut ≠ some n := fun e' => hw hL x (Option.some.inj (he.symm.trans e') ▸ hn)
          ⟨(k.laneWait n x hn).1, (k.laneWait n x hn).2.1, fun _ => (k.laneWait n x hn).2.2 hne⟩
        boundLane := fun l n x hn =>
          have hne : e.shut ≠ some n := fun e' => hh hL l x (Option.some.inj (he.symm.trans e') ▸ hn)
          ⟨(k.boundLane l n x hn).1, (k.boundLane l n x hn).2.1, fun _ => (k.boundLane l n x hn).2.2 hne⟩
        late := fun n x hn => by simp [hl] at hn } }

/-! ### Lanes -/

/-- A lane is rewritten that holds the stream that it held. -/
theorem setLane (h : s.Sound C L e w) {l : Nat} (hw : w = none ∨ w = some l) {v : Lane} (hh : v.held = (s.lane l).held)
    (hb : v.isBound = (s.lane l).isBound) (hs : v.stream = (s.lane l).stream ∨ v.stream = none)
    (hn : v.state ≠ .free → v.stream ≠ none) : (s.setLane l v).Sound C L e (some l) := by
  have hlane : ∀ k, (s.setLane l v).lane k = if k = l then v else s.lane k := fun k => setLane_lane _ l v k
  have hheld : ∀ k, ((s.setLane l v).lane k).held = (s.lane k).held := fun k => by
    rw [hlane]
    split
    · rename_i e
      rw [hh, e]
    · rfl
  have htabled : (s.setLane l v).Tabled := ⟨h.tabled.tenants, tableWf_putRow _ _ _ _ h.tabled.lanes, h.tabled.units⟩
  exact {
    tabled := htabled
    recencyOnce := h.recencyOnce
    recency := fun k => by
      rw [hlane]
      split
      · rename_i e
        rw [hb, e]
        exact h.recency l
      · exact h.recency k
    named := fun k => by
      rw [hlane]
      split
      · exact hn
      · exact h.named k
    bound := fun n => (h.bound n).trans (boundCount_congr h.tabled htabled hheld n).symm
    laneWaitOnce := h.laneWaitOnce
    waiting := h.waiting
    unitWaitOnce := h.unitWaitOnce
    unitWait := fun k hk => by
      have hkl : k ≠ l := fun e => hk (e ▸ rfl)
      rw [hlane, if_neg hkl]
      exact (h.mayWait hw).unitWait k hk
    pools := h.pools
    parked := h.parked
    owned := h.owned
    floors := h.floors
    view := fun k => hheld k ▸ h.view k
    started := h.started
    linked := fun hL =>
      have p := h.linked hL
      { p with
        boundLane := fun k n x hk => p.boundLane k n x (hheld k ▸ hk)
        boundStream := fun n x k hx hk => (hheld k).trans (p.boundStream n x k hx hk)
        laneOwner := fun k n x hk => by
          rw [hlane] at hk
          split at hk
          · rcases hs with hs | hs
            · exact p.laneOwner l n x (hs ▸ hk)
            · rw [hs] at hk
              cases hk
          · exact p.laneOwner k n x hk } }

end State.Sound

/-- Lane l lets go of stream x of tenant t and becomes v (R74, R181). -/
def State.letGo (s : State) (l t x : Nat) (v : Lane) : State :=
  ({ s.modStream t x (fun c => { c with binding := .unbound }) with recency := s.recency.erase l }.setLane l v).modTenant t
    (fun c => { c with bound := c.bound - 1 })

/-- Lane l becomes v and is bound to stream x of tenant t (R64). -/
def State.bindTo (s : State) (l t x : Nat) (v : Lane) : State :=
  ({ (s.setLane l v).modStream t x (fun c => { c with binding := .bound l }) with recency := s.recency ++ [l] }).modTenant t
    (fun c => { c with bound := c.bound + 1 })

section
variable (s : State) (l t x : Nat) (v : Lane)

theorem letGo_lane (k : Nat) : (s.letGo l t x v).lane k = if k = l then v else s.lane k := setLane_lane _ l v k

theorem letGo_unitWait : (s.letGo l t x v).unitWait = s.unitWait := rfl

theorem letGo_binding (n y : Nat) :
    ((s.letGo l t x v).stream n y).binding = if streamKey n y = streamKey t x then .unbound else (s.stream n y).binding := by
  rw [show (s.letGo l t x v).stream n y = (s.modStream t x (fun c => { c with binding := .unbound })).stream n y from rfl,
    modStream_stream]
  split <;> rfl

theorem letGo_tenant (n : Nat) :
    (s.letGo l t x v).tenant n = if n = t then { s.tenant t with bound := (s.tenant t).bound - 1 } else s.tenant n :=
  setTenant_tenant s t { s.tenant t with bound := (s.tenant t).bound - 1 } n

theorem bindTo_lane (k : Nat) : (s.bindTo l t x v).lane k = if k = l then v else s.lane k := setLane_lane _ l v k

theorem bindTo_binding (n y : Nat) :
    ((s.bindTo l t x v).stream n y).binding = if streamKey n y = streamKey t x then .bound l else (s.stream n y).binding := by
  rw [show (s.bindTo l t x v).stream n y = (s.modStream t x (fun c => { c with binding := .bound l })).stream n y from rfl,
    modStream_stream]
  split <;> rfl

theorem bindTo_tenant (n : Nat) :
    (s.bindTo l t x v).tenant n = if n = t then { s.tenant t with bound := (s.tenant t).bound + 1 } else s.tenant n := by
  have hkeep : ∀ m, ({ (s.setLane l v).modStream t x (fun c => { c with binding := .bound l }) with
      recency := s.recency ++ [l] } : State).tenant m = s.tenant m := fun m => tenant_of_tenants (s := s) rfl m
  rw [State.bindTo, modTenant_tenant, hkeep, hkeep]

variable {s l t x v} (h : s.Tabled)
include h

theorem letGo_tabled : (s.letGo l t x v).Tabled :=
  ⟨tableWf_putRow _ _ _ _ h.tenants, tableWf_putRow _ _ _ _ h.lanes, h.units⟩

theorem bindTo_tabled : (s.bindTo l t x v).Tabled :=
  ⟨tableWf_putRow _ _ _ _ h.tenants, tableWf_putRow _ _ _ _ h.lanes, h.units⟩

/-- A lane that lets go, or is bound, moves the count of the one tenant. -/
theorem letGo_boundCount (hh : (s.lane l).held = some (t, x)) (hv : v.isBound = false) (n : Nat) :
    (s.letGo l t x v).boundCount n + (if n = t then 1 else 0) = s.boundCount n := by
  have hchange := boundCount_change h (letGo_tabled h (l := l) (t := t) (x := x) (v := v)) l
    (fun k hk => by rw [letGo_lane, if_neg hk]) n
  rw [letGo_lane, if_pos rfl, Lane.held_of_not_bound hv, hh] at hchange
  by_cases hn : n = t
  · simpa [hn] using hchange
  · simpa [hn, Ne.symm hn] using hchange

theorem bindTo_boundCount (hb : (s.lane l).isBound = false) (hv : v.held = some (t, x)) (n : Nat) :
    (s.bindTo l t x v).boundCount n = s.boundCount n + (if n = t then 1 else 0) := by
  have hchange := boundCount_change h (bindTo_tabled h (l := l) (t := t) (x := x) (v := v)) l
    (fun k hk => by rw [bindTo_lane, if_neg hk]) n
  rw [bindTo_lane, if_pos rfl, Lane.held_of_not_bound hb, hv] at hchange
  by_cases hn : n = t
  · simpa [hn] using hchange
  · simpa [hn, Ne.symm hn] using hchange

end

/-- A tenant whose count of bound lanes alone has changed. -/
theorem floorSum_of_bound {s t : State} (hs : s.Tabled) (ht : t.Tabled)
    (h : ∀ n, ∃ b, t.tenant n = { s.tenant n with bound := b }) : t.floorSum = s.floorSum :=
  tableSum_congr (w := Tenant.weight) rfl hs.tenants ht.tenants fun n => by
    obtain ⟨b, hb⟩ := h n
    show (t.tenant n).weight = (s.tenant n).weight
    rw [hb]
    rfl

theorem letGo_tenant_eq (s : State) (l t x : Nat) (v : Lane) (n : Nat) :
    (s.letGo l t x v).tenant n =
      { s.tenant n with bound := if n = t then (s.tenant n).bound - 1 else (s.tenant n).bound } := by
  rw [letGo_tenant]
  split <;> simp_all

theorem bindTo_tenant_eq (s : State) (l t x : Nat) (v : Lane) (n : Nat) :
    (s.bindTo l t x v).tenant n =
      { s.tenant n with bound := if n = t then (s.tenant n).bound + 1 else (s.tenant n).bound } := by
  rw [bindTo_tenant]
  split <;> simp_all

/-- The links after a lane has let go. -/
theorem State.LinkedBut.letGo {e : Allow} {s : State} (k : s.LinkedBut e) {l t x : Nat} {v : Lane}
    (hh : (s.lane l).held = some (t, x)) (hpos : 0 < (s.tenant t).bound) (hv : v.isBound = false)
    (hs : v.stream = (s.lane l).stream ∨ v.stream = none) (V : Nat → Option (Nat × Nat) → Prop) {X : Nat → Int}
    (hX : ∀ n, e.excess n ≤ X n + if n = t then 1 else 0) :
    (s.letGo l t x v).LinkedBut { e with view := V, excess := X } := by
  obtain ⟨hx, hbl, -⟩ := k.boundLane l t x hh
  have hheld : ∀ m p, ((s.letGo l t x v).lane m).held = some p → m ≠ l ∧ (s.lane m).held = some p := fun m p hm => by
    rw [letGo_lane] at hm
    split at hm
    · rw [Lane.held_of_not_bound hv] at hm
      cases hm
    · rename_i hml
      exact ⟨hml, hm⟩
  have hopen : ∀ n, ((s.letGo l t x v).tenant n).isOpen = (s.tenant n).isOpen := fun n => by
    rw [letGo_tenant_eq]
    rfl
  have hkey : ∀ n y, y < 8 → (s.stream n y).binding ≠ .bound l → streamKey n y ≠ streamKey t x := fun n y hy hb hk => by
    obtain ⟨rfl, rfl⟩ := (streamKey_inj hy hx).mp hk
    exact hb hbl
  exact {
    intake := k.intake
    frames := fun f hf => by
      rw [hopen]
      exact k.frames f hf
    laneWait := fun n y hm => by
      obtain ⟨hy, hb, ho⟩ := k.laneWait n y hm
      rw [hopen, letGo_binding, if_neg (hkey n y hy (by rw [hb]; exact nofun))]
      exact ⟨hy, hb, ho⟩
    boundLane := fun m n y hm => by
      obtain ⟨hml, hm⟩ := hheld m _ hm
      obtain ⟨hy, hb, ho⟩ := k.boundLane m n y hm
      rw [hopen, letGo_binding, if_neg (hkey n y hy (by rw [hb]; exact fun e => hml (Binding.bound.inj e)))]
      exact ⟨hy, hb, ho⟩
    boundStream := fun n y m hy hb => by
      rw [letGo_binding] at hb
      split at hb
      · cases hb
      · rename_i hne
        have hm := k.boundStream n y m hy hb
        have hml : m ≠ l := fun e => by
          rw [e, hh] at hm
          cases hm
          exact hne rfl
        rw [letGo_lane, if_neg hml]
        exact hm
    laneOwner := fun m n y hm => by
      rw [letGo_tenant_eq]
      rw [letGo_lane] at hm
      split at hm
      · rcases hs with hs | hs
        · exact k.laneOwner l n y (hs ▸ hm)
        · rw [hs] at hm
          cases hm
      · exact k.laneOwner m n y hm
    quota := fun hd n => by
      have hq := k.quota hd n
      have hXn := hX n
      rw [letGo_tenant_eq]
      dsimp only
      split at hXn
      · rename_i e
        subst e
        rw [if_pos rfl]
        omega
      · rw [if_neg ‹_›]
        omega
    inFlight := k.inFlight
    records := fun n => by
      rw [letGo_tenant_eq]
      exact k.records n
    late := fun n y hn => by
      obtain ⟨hy, hb, hw, ho⟩ := k.late n y hn
      rw [hopen]
      refine ⟨hy, fun m => ?_, hw, ho⟩
      rw [letGo_binding]
      split
      · exact nofun
      · exact hb m }

/-- The links after a lane has been bound. -/
theorem State.LinkedBut.bindTo {e : Allow} {s : State} (k : s.LinkedBut e) {l t x : Nat} {v : Lane}
    (he : e.late = some (t, x)) (hc : e.shut = none) (hX : ∀ n, e.excess n ≤ if n = t then -1 else 0)
    (hb : (s.lane l).held = none) (hv : v.held = some (t, x)) : (s.bindTo l t x v).LinkedBut {} := by
  obtain ⟨hx, hfree, hwait, ho⟩ := k.late t x he
  have hopen : ∀ n, ((s.bindTo l t x v).tenant n).isOpen = (s.tenant n).isOpen := fun n => by
    rw [bindTo_tenant_eq]
    rfl
  have hshut : ∀ n, e.shut ≠ some n := fun n => by simp [hc]
  have hkey : ∀ n y, y < 8 → (n, y) ≠ (t, x) → streamKey n y ≠ streamKey t x := fun n y hy hne hk => by
    obtain ⟨rfl, rfl⟩ := (streamKey_inj hy hx).mp hk
    exact hne rfl
  exact {
    intake := k.intake
    frames := fun f hf => by
      rw [hopen]
      exact k.frames f hf
    laneWait := fun n y hm => by
      obtain ⟨hy, hbn, ho⟩ := k.laneWait n y hm
      rw [hopen, bindTo_binding, if_neg (hkey n y hy fun e => hwait (e ▸ hm))]
      exact ⟨hy, hbn, fun _ => ho (hshut n)⟩
    boundLane := fun m n y hm => by
      rw [bindTo_lane] at hm
      split at hm
      · rename_i e
        rw [hv] at hm
        cases hm
        rw [hopen, bindTo_binding, if_pos rfl, e]
        exact ⟨hx, rfl, fun _ => ho (hshut t)⟩
      · obtain ⟨hy, hbn, hon⟩ := k.boundLane m n y hm
        rw [hopen, bindTo_binding, if_neg (hkey n y hy fun e => by cases e; exact hfree m hbn)]
        exact ⟨hy, hbn, fun _ => hon (hshut n)⟩
    boundStream := fun n y m hy hbn => by
      rw [bindTo_binding] at hbn
      split at hbn
      · rename_i hk
        obtain ⟨rfl, rfl⟩ := (streamKey_inj hy hx).mp hk
        cases hbn
        rw [bindTo_lane, if_pos rfl]
        exact hv
      · have hm := k.boundStream n y m hy hbn
        rw [bindTo_lane, if_neg fun e => by rw [e, hb] at hm; cases hm]
        exact hm
    laneOwner := fun m n y hm => by
      rw [bindTo_tenant_eq]
      rw [bindTo_lane] at hm
      split at hm
      · have hn : (n, y) = (t, x) := Option.some.inj (hm.symm.trans (Lane.held_eq_some.mp hv).2)
        cases hn
        have hot := ho (hshut t)
        unfold Tenant.isOpen at hot
        rw [Bool.or_eq_true, Tenant.inFrames_iff] at hot
        exact ⟨hx, hot.imp_right And.left⟩
      · exact k.laneOwner m n y hm
    quota := fun hd n => by
      have hq := k.quota hd n
      have hXn := hX n
      rw [bindTo_tenant_eq]
      dsimp only
      split at hXn
      · rw [if_pos ‹_›]
        omega
      · rw [if_neg ‹_›]
        omega
    inFlight := k.inFlight
    records := fun n => by
      rw [bindTo_tenant_eq]
      exact k.records n
    late := nofun }

namespace State.Sound

variable {C L : Prop} {e : Allow} {w : Option Nat} {s : State}

theorem bound_pos (h : s.Sound C L e w) {l t x : Nat} (hh : (s.lane l).held = some (t, x)) : 0 < (s.tenant t).bound := by
  rw [h.bound]
  exact boundCount_pos h.tabled hh

/-- A lane lets go of its stream. -/
theorem letGo (h : s.Sound C L e w) {l t x : Nat} {v : Lane} (hh : (s.lane l).held = some (t, x)) (hv : v.isBound = false)
    (hs : v.stream = (s.lane l).stream ∨ v.stream = none) (hn : v.state ≠ .free → v.stream ≠ none)
    {V : Nat → Option (Nat × Nat) → Prop} {X : Nat → Int} (hV : ∀ k, k ≠ l → ∀ p, e.view k p → V k p) (hVl : V l none)
    (hX : ∀ n, e.excess n ≤ X n + if n = t then 1 else 0) :
    (s.letGo l t x v).Sound C L { e with view := V, excess := X } w where
  tabled := letGo_tabled h.tabled
  recencyOnce := h.recencyOnce.erase l
  recency k := by
    rw [letGo_lane, show (s.letGo l t x v).recency = s.recency.erase l from rfl, h.recencyOnce.mem_erase_iff]
    split
    · simp [*]
    · simp [h.recency k, *]
  named k := by
    rw [letGo_lane]
    split
    · exact hn
    · exact h.named k
  bound n := by
    have hcount := letGo_boundCount h.tabled hh hv n
    have hb := h.bound n
    rw [letGo_tenant_eq]
    dsimp only
    split at hcount
    · rw [if_pos ‹_›]
      omega
    · rw [if_neg ‹_›]
      omega
  laneWaitOnce := h.laneWaitOnce
  waiting n y hb hn := by
    rw [letGo_binding] at hb
    split at hb
    · cases hb
    · exact h.waiting n y hb hn
  unitWaitOnce := h.unitWaitOnce
  unitWait k hk := by
    rw [letGo_lane]
    split
    · exact fun hu => absurd hu (Lane.not_unitWait_of_not_bound hv)
    · exact h.unitWait k hk
  pools := h.pools
  parked := h.parked
  owned n := by
    rw [letGo_tenant_eq]
    exact h.owned n
  floors := by
    rw [floorSum_of_bound h.tabled (letGo_tabled h.tabled) fun n => ⟨_, letGo_tenant_eq s l t x v n⟩]
    exact h.floors
  view k := by
    rw [letGo_lane]
    split
    · rename_i e
      rw [Lane.held_of_not_bound hv, e]
      exact hVl
    · exact hV k ‹_› _ (h.view k)
  started := h.started
  linked hL := (h.linked hL).letGo hh (h.bound_pos hh) hv hs V hX

/-- The stream that was about to be bound is bound. -/
theorem bindTo (h : s.Sound C L e none) {l t x : Nat} {v : Lane} (he : e.late = some (t, x)) (hc : e.shut = none)
    (hX : ∀ n, e.excess n ≤ if n = t then -1 else 0) (hb : (s.lane l).isBound = false) (hv : v.state = .unitWait)
    (hs : v.stream = some (t, x)) : (s.bindTo l t x v).Sound C L {} (some l) := by
  have hbound : v.isBound = true := (Lane.isBound_iff v).mpr (.inl hv)
  have hheld : v.held = some (t, x) := Lane.held_eq_some.mpr ⟨hbound, hs⟩
  have hout : l ∉ s.recency := by
    rw [h.recency, hb]
    exact nofun
  exact {
    tabled := bindTo_tabled h.tabled
    recencyOnce := by
      rw [show (s.bindTo l t x v).recency = s.recency ++ [l] from rfl, List.nodup_append']
      exact ⟨h.recencyOnce, List.nodup_singleton l, by simpa using hout⟩
    recency := fun k => by
      rw [bindTo_lane, show (s.bindTo l t x v).recency = s.recency ++ [l] from rfl, List.mem_append, h.recency]
      split <;> simp_all
    named := fun k => by
      rw [bindTo_lane]
      split
      · rw [hs]
        exact nofun
      · exact h.named k
    bound := fun n => by
      have hcount := bindTo_boundCount h.tabled hb hheld n
      have hbn := h.bound n
      rw [bindTo_tenant_eq]
      dsimp only
      split at hcount
      · rw [if_pos ‹_›]
        omega
      · rw [if_neg ‹_›]
        omega
    laneWaitOnce := h.laneWaitOnce
    waiting := fun n y hbn _ => by
      rw [bindTo_binding] at hbn
      split at hbn
      · cases hbn
      · rename_i hne
        refine h.waiting n y hbn fun p hp => ?_
        rw [he] at hp
        cases hp
        exact hne
    unitWaitOnce := h.unitWaitOnce
    unitWait := fun k hk => by
      have hkl : k ≠ l := fun e => hk (congrArg some e.symm)
      rw [bindTo_lane, if_neg hkl]
      exact h.unitWait k nofun
    pools := h.pools
    parked := h.parked
    owned := fun n => by
      rw [bindTo_tenant_eq]
      exact h.owned n
    floors := by
      rw [floorSum_of_bound h.tabled (bindTo_tabled h.tabled) fun n => ⟨_, bindTo_tenant_eq s l t x v n⟩]
      exact h.floors
    view := fun _ => trivial
    started := h.started
    linked := fun hL => (h.linked hL).bindTo he hc hX (Lane.held_of_not_bound hb) hheld }

end State.Sound

end Sys2Proof.Machine

/-! ## Streams, queues, tenants and units -/

namespace Sys2Proof.Machine

namespace State.Sound

variable {C L : Prop} {e : Allow} {w : Option Nat} {s : State}

/-! ### The lane wait queue (R62) -/

/-- A stream that no lane holds and that does not wait becomes UNBOUND. -/
theorem unbind (h : s.Sound C L e w) {t x : Nat} (hl : e.late = none ∨ e.late = some (t, x))
    (hs : L → x < 8 ∧ (∀ l, (s.stream t x).binding ≠ .bound l) ∧ (t, x) ∉ s.laneWait) {v : StreamCtx} (hv : v.binding = .unbound) :
    (s.setStream t x v).Sound C L { e with late := none } w := by
  have hb : ∀ n y, ((s.setStream t x v).stream n y).binding =
      if streamKey n y = streamKey t x then .unbound else (s.stream n y).binding := fun n y => by
    rw [setStream_stream]
    split
    · exact hv
    · rfl
  exact { h with
    tabled := ⟨h.tabled.tenants, h.tabled.lanes, h.tabled.units⟩
    waiting := fun n y hw _ => by
      rw [hb] at hw
      split at hw
      · cases hw
      · rename_i hne
        refine h.waiting n y hw fun p hp => ?_
        rcases hl with hl | hl
        · rw [hl] at hp
          cases hp
        · rw [hl] at hp
          cases hp
          exact hne
    linked := fun hL => by
      have k := h.linked hL
      obtain ⟨hx, hfree, hout⟩ := hs hL
      have hkey : ∀ n y, y < 8 → (n, y) ≠ (t, x) → streamKey n y ≠ streamKey t x := fun n y hy hne hk => by
        obtain ⟨rfl, rfl⟩ := (streamKey_inj hy hx).mp hk
        exact hne rfl
      exact { k with
        laneWait := fun n y hm => by
          obtain ⟨hy, hbn, ho⟩ := k.laneWait n y hm
          rw [hb, if_neg (hkey n y hy fun e => hout (e ▸ hm))]
          exact ⟨hy, hbn, ho⟩
        boundLane := fun m n y hm => by
          obtain ⟨hy, hbn, ho⟩ := k.boundLane m n y hm
          rw [hb, if_neg (hkey n y hy fun e => by cases e; exact hfree m hbn)]
          exact ⟨hy, hbn, ho⟩
        boundStream := fun n y m hy hbn => by
          rw [hb] at hbn
          split at hbn
          · cases hbn
          · exact k.boundStream n y m hy hbn
        late := fun n y hn => by cases hn } }

/-- A stream leaves the lane wait queue, to be bound or made UNBOUND. -/
theorem leaveLaneWait (h : s.Sound C L e w) {t x : Nat} {q : List (Nat × Nat)} (hq : q.Sublist s.laneWait)
    (hkeep : ∀ p ∈ s.laneWait, p ≠ (t, x) → p ∈ q) (hgone : (t, x) ∉ q) (he : e.late = none)
    (hl : L → x < 8 ∧ (∀ l, (s.stream t x).binding ≠ .bound l) ∧ (e.shut ≠ some t → (s.tenant t).isOpen = true)) :
    { s with laneWait := q }.Sound C L { e with late := some (t, x) } w :=
  { h with
    tabled := ⟨h.tabled.tenants, h.tabled.lanes, h.tabled.units⟩
    laneWaitOnce := h.laneWaitOnce.sublist hq
    waiting := fun n y hb hn => by
      obtain ⟨p, hp, hk⟩ := h.waiting n y hb fun p hp => by simp [he] at hp
      refine ⟨p, hkeep p hp fun e => ?_, hk⟩
      refine hn (t, x) rfl ?_
      rw [← hk, e]
    linked := fun hL =>
      have k := h.linked hL
      { k with
        laneWait := fun n y hm => k.laneWait n y (hq.subset hm)
        late := fun n y hn => by
          cases hn
          exact ⟨(hl hL).1, (hl hL).2.1, hgone, (hl hL).2.2⟩ } }

/-- The head of the lane wait queue leaves it. -/
theorem popLaneWait (h : s.Sound C L e w) {t x : Nat} {rest : List (Nat × Nat)} (hq : s.laneWait = (t, x) :: rest)
    (he : e.late = none) : { s with laneWait := rest }.Sound C L { e with late := some (t, x) } w := by
  have hmem : (t, x) ∈ s.laneWait := hq ▸ List.mem_cons_self
  have honce := h.laneWaitOnce
  rw [hq, List.nodup_cons] at honce
  refine h.leaveLaneWait (hq ▸ List.sublist_cons_self _ _) (fun p hp hne => ?_) honce.1 he fun hL => ?_
  · rw [hq] at hp
    exact (List.mem_cons.mp hp).resolve_left hne
  · obtain ⟨hx, hb, ho⟩ := (h.linked hL).laneWait t x hmem
    exact ⟨hx, fun l => by rw [hb]; exact nofun, ho⟩

/-- The stream that was about to wait waits. -/
theorem joinLaneWait (h : s.Sound C L e w) {t x : Nat} (he : e.late = some (t, x)) :
    (s.joinLaneWait t x).Sound C L { e with late := none } w := by
  have hb : ∀ n y, ((s.joinLaneWait t x).stream n y).binding =
      if streamKey n y = streamKey t x then .waiting else (s.stream n y).binding := fun n y => by
    rw [show (s.joinLaneWait t x).stream n y = (s.modStream t x (fun v => { v with binding := .waiting })).stream n y from rfl,
      modStream_stream]
    split <;> rfl
  have hq : (s.joinLaneWait t x).laneWait = if s.laneWait.contains (t, x) then s.laneWait else s.laneWait ++ [(t, x)] := rfl
  have hin : (t, x) ∈ (s.joinLaneWait t x).laneWait := by
    rw [hq]
    split
    · rwa [List.contains_iff_mem] at *
    · simp
  have hkeep : ∀ p ∈ s.laneWait, p ∈ (s.joinLaneWait t x).laneWait := fun p hp => by
    rw [hq]
    split
    · exact hp
    · exact List.mem_append_left _ hp
  have hfrom : ∀ p ∈ (s.joinLaneWait t x).laneWait, p ∈ s.laneWait ∨ p = (t, x) := fun p hp => by
    rw [hq] at hp
    split at hp
    · exact .inl hp
    · simpa using hp
  exact { h with
    tabled := ⟨h.tabled.tenants, h.tabled.lanes, h.tabled.units⟩
    laneWaitOnce := by
      rw [hq]
      split
      · exact h.laneWaitOnce
      · rename_i hn
        rw [List.contains_iff_mem] at hn
        rw [List.nodup_append']
        exact ⟨h.laneWaitOnce, List.nodup_singleton _, by simpa using hn⟩
    waiting := fun n y hw _ => by
      rw [hb] at hw
      split at hw
      · rename_i hk
        exact ⟨(t, x), hin, hk.symm⟩
      · rename_i hne
        obtain ⟨p, hp, hk⟩ := h.waiting n y hw fun p hp => by
          rw [he] at hp
          cases hp
          exact hne
        exact ⟨p, hkeep p hp, hk⟩
    linked := fun hL => by
      have k := h.linked hL
      obtain ⟨hx, hfree, -, ho⟩ := k.late t x he
      have hkey : ∀ n y, y < 8 → (n, y) ≠ (t, x) → streamKey n y ≠ streamKey t x := fun n y hy hne hk => by
        obtain ⟨rfl, rfl⟩ := (streamKey_inj hy hx).mp hk
        exact hne rfl
      exact { k with
        laneWait := fun n y hm => by
          by_cases hn : (n, y) = (t, x)
          · cases hn
            rw [hb, if_pos rfl]
            exact ⟨hx, rfl, ho⟩
          · obtain ⟨hy, hbn, hon⟩ := k.laneWait n y ((hfrom _ hm).resolve_right hn)
            rw [hb, if_neg (hkey n y hy hn)]
            exact ⟨hy, hbn, hon⟩
        boundLane := fun m n y hm => by
          obtain ⟨hy, hbn, hon⟩ := k.boundLane m n y hm
          rw [hb, if_neg (hkey n y hy fun e => by cases e; exact hfree m hbn)]
          exact ⟨hy, hbn, hon⟩
        boundStream := fun n y m hy hbn => by
          rw [hb] at hbn
          split at hbn
          · cases hbn
          · exact k.boundStream n y m hy hbn
        late := fun n y hn => by cases hn } }

/-! ### The unit wait queue (R91, R94) -/

theorem withUnitWait (h : s.Sound C L e w) {q : List Nat} {w' : Option Nat} (hq : q.Nodup)
    (hkeep : ∀ l, w' ≠ some l → (s.lane l).state = .unitWait → l ∈ q) : { s with unitWait := q }.Sound C L e w' :=
  { h with
    tabled := ⟨h.tabled.tenants, h.tabled.lanes, h.tabled.units⟩
    unitWaitOnce := hq
    unitWait := hkeep
    linked := fun hL => { h.linked hL with } }

theorem joinUnitWait {l : Nat} (h : s.Sound C L e (some l)) : (s.joinUnitWait l).Sound C L e none := by
  unfold State.joinUnitWait
  split
  · rename_i hl
    rw [List.contains_iff_mem] at hl
    exact h.placed fun _ => hl
  · rename_i hl
    rw [List.contains_iff_mem] at hl
    refine h.withUnitWait ?_ fun k _ hk => ?_
    · rw [List.nodup_append']
      exact ⟨h.unitWaitOnce, List.nodup_singleton _, by simpa using hl⟩
    · by_cases hkl : k = l
      · simp [hkl]
      · exact List.mem_append_left _ (h.unitWait k (fun e => hkl (Option.some.inj e).symm) hk)

theorem leaveUnitWait {l : Nat} (h : s.Sound C L e none) (hl : (s.lane l).state ≠ .unitWait) :
    (s.leaveUnitWait l).Sound C L e none := by
  refine ite_keeps (Sound.core (s := { s with unitWait := s.unitWait.erase l }) ?_ (SameCore.refl _).raiseService) h
  refine h.withUnitWait (h.unitWaitOnce.erase l) fun k hk hs => ?_
  have hkl : k ≠ l := fun e => hl (e ▸ hs)
  exact (List.mem_erase_of_ne hkl).mpr (h.unitWait k hk hs)

end State.Sound

/-! ### Tenant contexts -/

/-- The context v fits the links of tenant t, with its final close under way where `shut` names it. -/
structure State.Fits (s : State) (t : Nat) (v : Tenant) (shut : Option Nat) : Prop where
  isOpen : (s.tenant t).isOpen = true → v.isOpen = true ∨ shut = some t ∧ s.queueOf t = []
  owner : (s.tenant t).isServed = true ∨ (s.tenant t).state = .draining →
    (v.isServed = true ∨ v.state = .draining) ∨ ∀ l x, (s.lane l).stream ≠ some (t, x)
  records : 1 ≤ v.active.laneQuota ∧ ∀ p, v.pendingPolicy = some p → 1 ≤ p.laneQuota

theorem State.LinkedBut.setTenant {e : Allow} {s : State} (k : s.LinkedBut e) {t : Nat} {v : Tenant} {a : Option Nat}
    {X : Nat → Int} (he : e.late = none) (ha : a = e.shut ∨ a = some t ∧ e.shut = none) (hf : s.Fits t v a)
    (hX : s.device ≠ .holding → (v.bound : Int) ≤ v.active.laneQuota + X t ∧ ∀ n, n ≠ t → e.excess n ≤ X n) :
    (s.setTenant t v).LinkedBut { e with shut := a, excess := X } := by
  have hopen : ∀ n, a ≠ some n → (e.shut ≠ some n → (s.tenant n).isOpen = true) →
      ((s.setTenant t v).tenant n).isOpen = true := fun n hn ho => by
    have hshut : e.shut ≠ some n := by
      rcases ha with ha | ⟨-, ha⟩
      · exact ha ▸ hn
      · rw [ha]
        exact nofun
    rw [setTenant_tenant]
    split
    · rename_i hnt
      subst hnt
      exact (hf.isOpen (ho hshut)).resolve_right fun h => hn h.1
    · exact ho hshut
  exact { k with
    frames := fun f hf' => by
      obtain ⟨hx, ho⟩ := k.frames f hf'
      refine ⟨hx, ?_⟩
      rw [setTenant_tenant]
      split
      · rename_i hft
        rw [hft] at ho
        refine (hf.isOpen ho).resolve_right fun h => ?_
        have hmem : f ∈ s.queueOf t := List.mem_filter.mpr ⟨hf', by simpa using hft⟩
        rw [h.2] at hmem
        cases hmem
      · exact ho
    laneWait := fun n x hm => ⟨(k.laneWait n x hm).1, (k.laneWait n x hm).2.1, fun hn => hopen n hn (k.laneWait n x hm).2.2⟩
    boundLane := fun l n x hm =>
      ⟨(k.boundLane l n x hm).1, (k.boundLane l n x hm).2.1, fun hn => hopen n hn (k.boundLane l n x hm).2.2⟩
    laneOwner := fun l n x hm => by
      obtain ⟨hx, ho⟩ := k.laneOwner l n x hm
      refine ⟨hx, ?_⟩
      rw [setTenant_tenant]
      split
      · rename_i hnt
        subst hnt
        exact (hf.owner ho).resolve_right fun h => h l x hm
      · exact ho
    quota := fun hd n => by
      obtain ⟨hv, hn⟩ := hX hd
      rw [setTenant_tenant]
      split
      · rename_i hnt
        exact hnt ▸ hv
      · rename_i hnt
        have := k.quota hd n
        have := hn n hnt
        dsimp only
        omega
    records := fun n => by
      rw [setTenant_tenant]
      split
      · exact hf.records
      · exact k.records n
    late := fun n x hn => by simp [he] at hn }

namespace State.Sound

variable {C L : Prop} {e : Allow} {w : Option Nat} {s : State}

/-- A tenant context is rewritten. -/
theorem setTenant (h : s.Sound C L e w) {t : Nat} {v : Tenant} {a : Option Nat} {X : Nat → Int} (he : e.late = none)
    (ha : a = e.shut ∨ a = some t ∧ e.shut = none) (hb : v.bound = (s.tenant t).bound) (ho : v.owned = (s.tenant t).owned)
    (hfloor : s.floorSum + v.weight ≤ Config.floorLimit + (s.tenant t).weight) (hf : L → s.Fits t v a)
    (hX : L → s.device ≠ .holding → (v.bound : Int) ≤ v.active.laneQuota + X t ∧ ∀ n, n ≠ t → e.excess n ≤ X n) :
    (s.setTenant t v).Sound C L { e with shut := a, excess := X } w := by
  have htabled : (s.setTenant t v).Tabled := ⟨tableWf_putRow _ _ _ _ h.tabled.tenants, h.tabled.lanes, h.tabled.units⟩
  exact { h with
    tabled := htabled
    bound := fun n => by
      rw [setTenant_tenant]
      split
      · rename_i hn
        rw [hb, hn]
        exact h.bound t
      · exact h.bound n
    owned := fun n => by
      rw [setTenant_tenant]
      split
      · rename_i hn
        rw [ho, hn]
        exact h.owned t
      · exact h.owned n
    floors := by
      have hsum := floorSum_change h.tabled htabled t fun k hk => by rw [setTenant_tenant, if_neg hk]
      rw [setTenant_tenant, if_pos rfl] at hsum
      omega
    linked := fun hL => (h.linked hL).setTenant he ha (hf hL) (hX hL) }

/-! ### Units -/

/-- Unit u is rewritten, with the pools and the counts that go with it. -/
theorem reunit {t : State} (h : s.Sound C L e w) (k : SameLinks s t) {u : Nat} {r : UnitRec}
    (hunits : ∀ n, t.unit n = if n = u then r else s.unit n)
    (hpools : ∀ n g, (t.pool g).count n = if n = u then (if r.state = .free ∧ g = poolOf u then 1 else 0)
      else (s.pool g).count n)
    (hparked : t.parked + (decide ((s.unit u).state = .parked)).toNat = s.parked + (decide (r.state = .parked)).toNat)
    (howned : ∀ n, (t.tenant n).owned + ((s.unit u).ownedBy n).toNat = (s.tenant n).owned + (r.ownedBy n).toNat) :
    t.Sound C L e w := by
  have htabled := k.tabled h.tabled
  have hr : t.unit u = r := (hunits u).trans (if_pos rfl)
  have hother : ∀ n, n ≠ u → (t.unit n).view = (s.unit n).view := fun n hn => by rw [hunits, if_neg hn]
  refine h.of_links k (fun n g => ?_) ?_ fun n => ?_
  · rw [hpools, hunits]
    split
    · rw [‹n = u›]
    · exact h.pools n g
  · have hcount := parkedCount_change h.tabled htabled u hother
    rw [hr] at hcount
    have := h.parked
    omega
  · have hcount := ownedCount_change h.tabled htabled u hother n
    rw [hr] at hcount
    have := h.owned n
    have := howned n
    omega

theorem parked_pos (h : s.Sound C L e w) {u : Nat} (hu : (s.unit u).state = .parked) : 0 < s.parked := by
  rw [h.parked]
  exact parkedCount_pos h.tabled hu

theorem owned_pos (h : s.Sound C L e w) {u n : Nat} (hu : (s.unit u).ownedBy n = true) : 0 < (s.tenant n).owned := by
  rw [h.owned]
  exact ownedCount_pos h.tabled hu

/-- The counts of a unit that stands in no pool. -/
theorem count_of_not_free (h : s.Sound C L e w) {u : Nat} (hu : (s.unit u).state ≠ .free) (g : Nat) :
    (s.pool g).count u = 0 := by
  rw [h.pools, if_neg fun hf => hu hf.1]

end State.Sound

end Sys2Proof.Machine

/-! ## Units changing hands -/

namespace Sys2Proof.Machine

theorem UnitRec.isOpen_iff (r : UnitRec) : r.isOpen = true ↔ r.state = .opened ∨ r.state = .parked := by
  unfold UnitRec.isOpen
  simp

/-- A unit counts for its owner in four of its states (R128). -/
def UnitState.counts : UnitState → Bool
  | .opened | .parked | .sealed | .reclaiming => true
  | _ => false

theorem UnitRec.ownedBy_eq (r : UnitRec) (n : Nat) : r.ownedBy n = (r.state.counts && r.owner.any (fun p => p.1 = n)) := by
  unfold UnitRec.ownedBy UnitRec.isOpen
  cases r.owner <;> cases r.state <;> rfl

namespace SameLinks

theorem refl (s : State) : SameLinks s s := (SameCore.refl s).links

theorem trans {s t u : State} (h : SameLinks s t) (k : SameLinks t u) : SameLinks s u where
  tabled := k.tabled ∘ h.tabled
  device := k.device.trans h.device
  settings := k.settings.trans h.settings
  recency := k.recency.trans h.recency
  laneWait := k.laneWait.trans h.laneWait
  unitWait := k.unitWait.trans h.unitWait
  tenants n :=
    have hst := h.tenants n
    have htu := k.tenants n
    ⟨htu.state.trans hst.state, htu.active.trans hst.active, htu.pendingPolicy.trans hst.pendingPolicy, rfl,
      htu.bound.trans hst.bound, htu.phase.trans hst.phase⟩
  bindings n x := (k.bindings n x).trans (h.bindings n x)
  lanes l := (k.lanes l).trans (h.lanes l)
  came g hg := by
    obtain ⟨f, hf, hs⟩ := k.came g hg
    obtain ⟨e, he, hs'⟩ := h.came f hf
    exact ⟨e, he, hs'.trans hs⟩
  inFlight g hg := by
    have hlimit := k.inFlight g
    rw [h.settings] at hlimit
    exact hlimit (h.inFlight g hg)

section
variable {q s : State} (h : SameLinks q s)
include h

theorem setUnit {u r} : SameLinks q (s.setUnit u r) :=
  h.trans { refl s with tabled := fun ht => ⟨ht.tenants, ht.lanes, tableWf_putRow _ _ _ _ ht.units⟩ }

theorem setPool {g p} : SameLinks q (s.setPool g p) :=
  h.trans { refl s with tabled := fun ht => ⟨ht.tenants, ht.lanes, ht.units⟩ }

theorem withParked {n} : SameLinks q { s with parked := n } :=
  h.trans { refl s with tabled := fun ht => ⟨ht.tenants, ht.lanes, ht.units⟩ }

/-- The count of a tenant's units is rewritten. -/
theorem setOwned {t n} : SameLinks q (s.setTenant t { s.tenant t with owned := n }) :=
  h.trans { refl s with
    tabled := fun ht => ⟨tableWf_putRow _ _ _ _ ht.tenants, ht.lanes, ht.units⟩
    tenants := fun m => by
      rw [setTenant_tenant]
      split
      · rename_i e
        rw [e]
        exact ⟨rfl, rfl, rfl, rfl, rfl, rfl⟩
      · exact ⟨rfl, rfl, rfl, rfl, rfl, rfl⟩ }

end

end SameLinks

theorem modTenant_owned (s : State) (t : Nat) (f : Tenant → Tenant) (n : Nat) :
    ((s.modTenant t f).tenant n).owned = if n = t then (f (s.tenant t)).owned else (s.tenant n).owned := by
  rw [modTenant_tenant]
  split <;> rfl

namespace State.Sound

variable {C L : Prop} {e : Allow} {w : Option Nat} {s : State}

theorem of_head_pool (h : s.Sound C L e w) {g u : Nat} {rest : List Nat} (hg : s.pool g = u :: rest) :
    (s.unit u).state = .free ∧ g = poolOf u ∧ rest.count u = 0 := by
  have hp := h.pools u g
  rw [hg, List.count_cons_self] at hp
  split at hp
  · exact ⟨‹_ ∧ _›.1, ‹_ ∧ _›.2, by omega⟩
  · omega

/-- The head unit of a pool is taken for a stream (R89). -/
theorem draw (h : s.Sound C L e w) {g u : Nat} {rest : List Nat} (hg : s.pool g = u :: rest) (t x : Nat) :
    (((s.setPool g rest).modUnit u (UnitRec.takenFor t x)).modTenant t (fun v => { v with owned := v.owned + 1 })).Sound C
      L e w := by
  obtain ⟨hu, hgu, hrest⟩ := h.of_head_pool hg
  have hunit : ∀ n, (((s.setPool g rest).modUnit u (UnitRec.takenFor t x)).modTenant t
      (fun v => { v with owned := v.owned + 1 })).unit n =
        if n = u then { s.unit u with state := .opened, owner := some (t, x) } else s.unit n := fun n => by
    have hmod := modUnit_unit (s.setPool g rest) u (UnitRec.takenFor t x) n
    unfold UnitRec.takenFor at hmod
    rw [show (s.setPool g rest).unit u = s.unit u from rfl, if_pos hu] at hmod
    exact hmod
  have hpool : ∀ i, (((s.setPool g rest).modUnit u (UnitRec.takenFor t x)).modTenant t
      (fun v => { v with owned := v.owned + 1 })).pool i = if i = g then rest else s.pool i := setPool_pool s g rest
  refine h.reunit (((SameLinks.refl s).setPool.setUnit).setOwned) hunit (fun n i => ?_) ?_ fun n => ?_
  · rw [hpool, if_neg (c := _ ∧ _) (by simp)]
    by_cases hn : n = u
    · rw [if_pos hn, hn]
      split
      · exact hrest
      · rename_i hi
        rw [h.pools, if_neg fun hf => hi (hf.2.trans hgu.symm)]
    · rw [if_neg hn]
      split
      · rw [‹i = g›, hg, List.count_cons_of_ne (Ne.symm hn)]
      · rfl
  · rw [hu]
    rfl
  · rw [modTenant_owned, UnitRec.ownedBy_eq, UnitRec.ownedBy_eq, hu]
    by_cases hn : n = t
    · simp [hn, UnitState.counts]
    · simp [hn, UnitState.counts, Ne.symm hn, modUnit_tenant]

/-- A unit keeps its owner and goes from one state to another, none of them FREE. -/
theorem setUnitState (h : s.Sound C L e w) {u : Nat} {r : UnitRec} {n : Nat} (ho : r.owner = (s.unit u).owner)
    (hold : (s.unit u).state ≠ .free) (hnew : r.state ≠ .free) (hc : r.state.counts = (s.unit u).state.counts)
    (hparked : n + (decide ((s.unit u).state = .parked)).toNat = s.parked + (decide (r.state = .parked)).toNat) :
    { s.setUnit u r with parked := n }.Sound C L e w := by
  refine h.reunit ((SameLinks.refl s).setUnit.withParked) (fun k => setUnit_unit s u r k) (fun k g => ?_) hparked fun k => ?_
  · split
    · rename_i hk
      rw [if_neg fun hf => hnew hf.1, hk]
      exact h.count_of_not_free hold g
    · rfl
  · rw [UnitRec.ownedBy_eq, UnitRec.ownedBy_eq, ho, hc]
    rfl

/-- A parked unit is resumed (R63). -/
theorem resume (h : s.Sound C L e w) {u : Nat} (hu : (s.unit u).state = .parked) :
    { s.modUnit u (fun r => { r with state := .opened }) with parked := s.parked - 1 }.Sound C L e w := by
  refine h.setUnitState rfl (by rw [hu]; decide) nofun (by rw [hu]; rfl) ?_
  have := h.parked_pos hu
  rw [hu]
  simp
  omega

/-- An OPEN unit is parked; any other stays as it is (R77). -/
theorem setAside (h : s.Sound C L e w) (u : Nat) :
    { s.modUnit u UnitRec.setAside with
      parked := if (s.unit u).state = UnitState.opened then s.parked + 1 else s.parked }.Sound C L e w := by
  by_cases hu : (s.unit u).state = .opened
  · have hr : (s.unit u).setAside = { s.unit u with state := .parked } := if_pos hu
    refine h.setUnitState (r := (s.unit u).setAside) ?_ (by rw [hu]; decide) ?_ ?_ ?_ <;> rw [hr]
    · exact nofun
    · rw [hu]
      rfl
    · rw [hu, if_pos rfl]
      rfl
  · rw [if_neg hu]
    have hr : (s.unit u).setAside = s.unit u := if_neg hu
    exact h.core (SameCore.trans (SameCore.setUnit (r := (s.unit u).setAside) (by rw [hr])) .records)

/-- An OPEN or PARKED unit becomes SEALED or RECLAIMING; any other keeps its state. -/
theorem closeUnit (h : s.Sound C L e w) {u : Nat} {r : UnitRec} (ho : r.owner = (s.unit u).owner)
    (hopen : (s.unit u).isOpen = true → r.state = .sealed ∨ r.state = .reclaiming)
    (hshut : (s.unit u).isOpen = false → r.state = (s.unit u).state) :
    { s.setUnit u r with parked := if (s.unit u).state = UnitState.parked then s.parked - 1 else s.parked }.Sound C L e w := by
  cases hu : (s.unit u).isOpen with
  | false =>
    have hp : (s.unit u).state ≠ .parked := fun e => by simp [UnitRec.isOpen, e] at hu
    rw [if_neg hp]
    exact h.core (SameCore.trans (SameCore.setUnit (UnitRec.view_eq.mpr ⟨hshut hu, ho⟩)) .records)
  | true =>
    have hr := hopen hu
    refine h.setUnitState ho ?_ ?_ ?_ ?_
    · rcases (UnitRec.isOpen_iff _).mp hu with e | e <;> rw [e] <;> decide
    · rcases hr with e | e <;> rw [e] <;> decide
    · rcases hr with e | e <;> rcases (UnitRec.isOpen_iff _).mp hu with e' | e' <;> rw [e, e'] <;> rfl
    · have hnew : decide (r.state = .parked) = false := by rcases hr with e | e <;> rw [e] <;> rfl
      rw [hnew]
      split
      · rename_i hp
        have := h.parked_pos hp
        simp [hp]
        omega
      · rename_i hp
        simp [hp]

theorem sealUnit (h : s.Sound C L e w) (u : Nat) : (s.sealUnit u).Sound C L e w := by
  refine h.closeUnit (r := (s.unit u).sealedAt s.epoch) ?_ ?_ ?_ <;> unfold UnitRec.sealedAt
  · split <;> rfl
  · intro hu
    rw [if_pos hu]
    exact .inl rfl
  · intro hu
    rw [hu]
    rfl

theorem failUnit (h : s.Sound C L e w) (u : Nat) : (s.failUnit u).Sound C L e w :=
  h.closeUnit (r := (s.unit u).spoiled) rfl (fun hu => .inr (if_pos hu)) fun hu => if_neg (by simp [hu])

theorem reclaim (h : s.Sound C L e w) {u : Nat} (hu : (s.unit u).state = .sealed) : (s.reclaim u).Sound C L e w := by
  have hset := h.setUnitState (u := u) (r := { s.unit u with state := .reclaiming }) (n := s.parked) rfl (by rw [hu]; decide)
    nofun (by rw [hu]; rfl) (by rw [hu]; rfl)
  exact hset.core .records

/-- A unit that no pool holds and that counts for no tenant is given a record of the same kind. -/
theorem setUncounted (h : s.Sound C L e w) {u : Nat} {r : UnitRec} (hold : (s.unit u).state.counts = false)
    (hfree : (s.unit u).state ≠ .free) (hnew : r.state.counts = false) (hfree' : r.state ≠ .free) :
    (s.setUnit u r).Sound C L e w := by
  refine h.reunit (SameLinks.refl s).setUnit (fun k => setUnit_unit s u r k) (fun k g => ?_) ?_ fun k => ?_
  · split
    · rename_i hk
      rw [if_neg fun hf => hfree' hf.1, hk]
      exact h.count_of_not_free hfree g
    · rfl
  · have hp : ∀ st : UnitState, st.counts = false → decide (st = .parked) = false := fun st hst => by
      cases st <;> simp_all [UnitState.counts]
    rw [hp _ hold, hp _ hnew]
    rfl
  · rw [UnitRec.ownedBy_eq, UnitRec.ownedBy_eq, hold, hnew]
    rfl

/-- A unit joins the pool of its group (R87). -/
theorem supply (h : s.Sound C L e w) {u : Nat} {r : UnitRec} (hu : (s.unit u).state = .unknown ∨ (s.unit u).state = .vacant)
    (hr : r.state = .free) :
    ((s.setUnit u r).setPool (poolOf u) (s.pool (poolOf u) ++ [u])).Sound C L e w := by
  have hold : (s.unit u).state ≠ .free := by rcases hu with e | e <;> rw [e] <;> decide
  have hpool : ∀ g, ((s.setUnit u r).setPool (poolOf u) (s.pool (poolOf u) ++ [u])).pool g =
      if g = poolOf u then s.pool (poolOf u) ++ [u] else s.pool g := setPool_pool (s.setUnit u r) _ _
  refine h.reunit (u := u) (r := r) (SameLinks.refl s).setUnit.setPool (fun k => setUnit_unit s u r k)
    (fun k g => ?_) ?_ fun k => ?_
  · rw [hpool]
    by_cases hk : k = u
    · have hnone := h.count_of_not_free hold
      rw [if_pos hk, hk]
      by_cases hg : g = poolOf u
      · rw [if_pos hg, if_pos ⟨hr, hg⟩, List.count_append, hnone, List.count_singleton_self]
      · rw [if_neg hg, if_neg fun hf => hg hf.2, hnone]
    · rw [if_neg hk]
      split
      · rename_i hg
        rw [List.count_append, hg, List.count_singleton, if_neg (by simpa using Ne.symm hk), Nat.add_zero]
      · rfl
  · rw [hr]
    rcases hu with e | e <;> rw [e] <;> rfl
  · rw [UnitRec.ownedBy_eq, UnitRec.ownedBy_eq, hr]
    rcases hu with e | e <;> rw [e] <;> rfl

/-- A FREE unit is withdrawn from its pool (R88). -/
theorem withdrawn (h : s.Sound C L e w) {u : Nat} {r : UnitRec} (hu : (s.unit u).state = .free) (hr : r.state = .vacant) :
    ((s.setPool (poolOf u) ((s.pool (poolOf u)).erase u)).setUnit u r).Sound C L e w := by
  have hpool : ∀ g, ((s.setPool (poolOf u) ((s.pool (poolOf u)).erase u)).setUnit u r).pool g =
      if g = poolOf u then (s.pool (poolOf u)).erase u else s.pool g := setPool_pool s _ _
  refine h.reunit (u := u) (r := r) (SameLinks.refl s).setPool.setUnit (fun k => setUnit_unit _ u r k)
    (fun k g => ?_) ?_ fun k => ?_
  · rw [hpool]
    by_cases hk : k = u
    · rw [if_pos hk, hk, hr, if_neg (c := _ ∧ _) (by simp)]
      split
      · rw [List.count_erase_self, h.pools, if_pos ⟨hu, rfl⟩]
      · rename_i hg
        rw [h.pools, if_neg fun hf => hg hf.2]
    · rw [if_neg hk]
      split
      · rename_i hg
        rw [hg, List.count_erase_of_ne hk]
      · rfl
  · rw [hu, hr]
    rfl
  · rw [UnitRec.ownedBy_eq, UnitRec.ownedBy_eq, hu, hr]
    rfl

/-- A RECLAIMING unit is released and counts for its former owner no more (R135). -/
theorem released (h : s.Sound C L e w) {u t x : Nat} {r : UnitRec} (hu : (s.unit u).state = .reclaiming)
    (ho : (s.unit u).owner = some (t, x)) (hr : r.state = .retired ∨ r.state = .vacant) :
    ((s.setUnit u r).modTenant t (fun v => { v with owned := v.owned - 1 })).Sound C L e w := by
  have hnew : r.state ≠ .free := by rcases hr with e | e <;> rw [e] <;> decide
  refine h.reunit (SameLinks.refl s).setUnit.setOwned (fun k => setUnit_unit s u r k) (fun k g => ?_) ?_ fun k => ?_
  · split
    · rename_i hk
      rw [if_neg fun hf => hnew hf.1, hk]
      exact h.count_of_not_free (by rw [hu]; decide) g
    · rfl
  · rw [hu]
    rcases hr with e | e <;> rw [e] <;> rfl
  · have hpos := h.owned_pos (u := u) (n := t) (by rw [UnitRec.ownedBy_eq, hu, ho]; simp [UnitState.counts])
    have hnone : r.state.counts = false := by rcases hr with e | e <;> rw [e] <;> rfl
    rw [modTenant_owned, UnitRec.ownedBy_eq, UnitRec.ownedBy_eq, hu, ho, hnone]
    by_cases hk : k = t
    · simp [hk, UnitState.counts]
      omega
    · simp [hk, UnitState.counts, Ne.symm hk]

/-- A RECLAIMING unit without an owner is released. -/
theorem releasedOwnerless (h : s.Sound C L e w) {u : Nat} {r : UnitRec} (hu : (s.unit u).state = .reclaiming)
    (ho : (s.unit u).owner = none) (hr : r.state = .retired ∨ r.state = .vacant) : (s.setUnit u r).Sound C L e w := by
  have hnew : r.state ≠ .free := by rcases hr with e | e <;> rw [e] <;> decide
  refine h.reunit (SameLinks.refl s).setUnit (fun k => setUnit_unit s u r k) (fun k g => ?_) ?_ fun k => ?_
  · split
    · rename_i hk
      rw [if_neg fun hf => hnew hf.1, hk]
      exact h.count_of_not_free (by rw [hu]; decide) g
    · rfl
  · rw [hu]
    rcases hr with e | e <;> rw [e] <;> rfl
  · have hnone : r.state.counts = false := by rcases hr with e | e <;> rw [e] <;> rfl
    rw [UnitRec.ownedBy_eq, UnitRec.ownedBy_eq, ho, hnone]
    simp

/-- A unit is declared SEALED for its owner (R130). -/
theorem declared (h : s.Sound C L e w) {u t x : Nat} {r : UnitRec} (hu : (s.unit u).state = .unknown)
    (hr : r.state = .sealed) (ho : r.owner = some (t, x)) :
    ((s.setUnit u r).modTenant t (fun v => { v with owned := v.owned + 1 })).Sound C L e w := by
  refine h.reunit (SameLinks.refl s).setUnit.setOwned (fun k => setUnit_unit s u r k) (fun k g => ?_) ?_ fun k => ?_
  · split
    · rename_i hk
      rw [hr, if_neg (by simp), hk]
      exact h.count_of_not_free (by rw [hu]; decide) g
    · rfl
  · rw [hu, hr]
    rfl
  · rw [modTenant_owned, UnitRec.ownedBy_eq, UnitRec.ownedBy_eq, hu, hr, ho]
    by_cases hk : k = t
    · simp [hk, UnitState.counts]
    · simp [hk, UnitState.counts, Ne.symm hk]

end State.Sound

end Sys2Proof.Machine

/-! ## The supply pools and the lane engine, one event at a time -/

namespace Sys2Proof.Machine

theorem fullest_ne_nil {s : State} {gs : List Nat} {g : Nat} (h : s.fullest gs = some g) : s.pool g ≠ [] := by
  induction gs generalizing g with
  | nil => cases h
  | cons a rest ih =>
    unfold State.fullest at h
    split at h
    · rename_i b hb
      have hlen := List.length_pos_iff.mpr (ih hb)
      split at h <;> cases h
      · exact List.length_pos_iff.mp (by omega)
      · exact ih hb
    · split at h
      · cases h
      · cases h
        exact fun e => ‹¬_› (by rw [e]; rfl)

theorem choosePool_ne_nil {s : State} {mask : BitVec 8} {noUnit : NoUnit} {g : Nat} (h : s.choosePool mask noUnit = some g) :
    s.pool g ≠ [] := by
  unfold State.choosePool at h
  split at h
  · cases h
    exact fullest_ne_nil ‹_›
  · split at h
    · exact fullest_ne_nil h
    · cases h

/-- A lane that has been given a unit, in its new state (R63). -/
theorem giveUnit_state (s : State) (l u n : Nat) :
    ((s.giveUnit l u n).lane l).state = if (s.lane l).state = .unitWait then .active else (s.lane l).state := by
  have hlane : (s.giveUnit l u n).lane l = (s.modLane l fun v =>
      { v with current := some (u, n), state := if v.state = .unitWait then .active else v.state }).lane l := by
    unfold State.giveUnit
    dsimp only
    split <;> rfl
  rw [hlane, modLane_lane, if_pos rfl]

theorem giveUnit_not_unitWait (s : State) (l u n : Nat) : ((s.giveUnit l u n).lane l).state ≠ .unitWait := by
  rw [giveUnit_state]
  split
  · exact nofun
  · assumption

theorem drawUnit_not_unitWait {s : State} {g l t x : Nat} (hg : s.pool g ≠ []) :
    ((s.drawUnit g l t x).lane l).state ≠ .unitWait := by
  unfold State.drawUnit
  split
  · exact absurd ‹_› hg
  · dsimp only
    rw [(Lane.view_eq.mp ((SameCore.refl _).lowWaterCheck.lanes l)).1]
    exact giveUnit_not_unitWait _ _ _ _

namespace State.Sound

variable {C L : Prop} {e : Allow} {w : Option Nat} {s : State} {l : Nat}

/-- A bound lane is rewritten and stays bound to its stream. -/
theorem setBoundLane (h : s.Sound C L e w) (hw : w = none ∨ w = some l) {v : Lane} (hb : (s.lane l).isBound = true)
    (hv : v.isBound = true) (hs : v.stream = (s.lane l).stream) : (s.setLane l v).Sound C L e (some l) := by
  refine h.setLane hw ?_ (hv.trans hb.symm) (.inl hs) fun _ => ?_
  · unfold Lane.held
    rw [hv, hb, hs]
  · rw [hs]
    refine h.named l fun hf => ?_
    rw [Lane.isBound_iff, hf] at hb
    simp at hb

/-- A lane that is given a unit is not in UNIT_WAIT. -/
theorem giveUnit (h : s.Sound C L e w) (hw : w = none ∨ w = some l) (u n : Nat) : (s.giveUnit l u n).Sound C L e none := by
  refine Sound.placed (l := l) ?_ fun hs => absurd hs (giveUnit_not_unitWait s l u n)
  have hlane : (s.modLane l fun v =>
      { v with current := some (u, n), state := if v.state = .unitWait then .active else v.state }).Sound C L e (some l) := by
    by_cases hs : (s.lane l).state = .unitWait
    · exact h.setBoundLane hw ((Lane.isBound_iff _).mpr (.inl hs)) ((Lane.isBound_iff _).mpr (.inr (if_pos hs))) rfl
    · exact (h.mayWait hw).core (SameCore.setLane (Lane.view_eq.mpr ⟨if_neg hs, rfl⟩))
  exact ite_keeps (hlane.core (SameCore.refl _).raiseCheck) hlane

theorem drawUnit (h : s.Sound C L e w) (hw : w = none ∨ w = some l) {g : Nat} (hg : s.pool g ≠ []) (t x : Nat) :
    (s.drawUnit g l t x).Sound C L e none := by
  unfold State.drawUnit
  split
  · exact absurd ‹_› hg
  · exact ((h.draw ‹_› t x).giveUnit hw _ _).core (SameCore.refl _).lowWaterCheck

theorem resumeParked (h : s.Sound C L e w) (hw : w = none ∨ w = some l) {u : Nat} (hu : (s.unit u).state = .parked)
    (t x n : Nat) : (s.resumeParked l t x u n).Sound C L e none := by
  have hparked := (h.resume hu).core ((SameCore.refl _).modStream (t := t) (x := x) (f := fun v => { v with parkedUnit := none }))
  exact Sound.giveUnit hparked hw u n

/-- A bound lane waits for a unit (R91). -/
theorem waitForUnit (h : s.Sound C L e w) (hw : w = none ∨ w = some l) (hb : (s.lane l).isBound = true) :
    ((s.modLane l (fun v => { v with state := .unitWait })).joinUnitWait l).Sound C L e none :=
  (h.setBoundLane (v := { s.lane l with state := .unitWait }) hw hb rfl rfl).joinUnitWait

theorem noUnitFound (h : s.Sound C L e w) (hw : w = none ∨ w = some l ∧ s.device ≠ .holding) (t x : Nat) :
    (s.noUnitFound l t x).Sound C L e none := by
  have hw' : w = none ∨ w = some l := hw.imp_right And.left
  unfold State.noUnitFound
  split_ifs with hd hb hr
  · rcases hw with rfl | ⟨-, hn⟩
    · exact h
    · exact absurd hd hn
  · have hcore : SameCore s (s.dropEmptyFilling l) := (SameCore.refl s).dropEmptyFilling
    have hbound : ((s.dropEmptyFilling l).lane l).isBound = true := (Lane.isBound_congr (hcore.lanes l)).trans hb
    exact Sound.core ((h.core hcore).waitForUnit hw' hbound) (SameCore.refl _).noSpaceReport
  · exact h.waitForUnit hw' hb
  · exact (h.mayWait hw').joinUnitWait

/-- A lane takes a unit, or waits for one (R63, R91). -/
theorem takeUnit (h : s.Sound C L e w) (hw : w = none ∨ w = some l ∧ s.device ≠ .holding) : (s.takeUnit l).Sound C L e none := by
  have hw' : w = none ∨ w = some l := hw.imp_right And.left
  have hdraw : ∀ {g} t x, s.pool g ≠ [] → ((s.drawUnit g l t x).leaveUnitWait l).Sound C L e none := fun t x hg =>
    (h.drawUnit hw' hg t x).leaveUnitWait (drawUnit_not_unitWait hg)
  unfold State.takeUnit
  split
  · rename_i hs
    exact (h.mayWait hw').placed fun hu => absurd hs (h.named l (by rw [hu]; exact nofun))
  · rename_i t x _
    dsimp only
    split
    · rename_i u n _
      split
      · rename_i hu
        simp only [Bool.and_eq_true, decide_eq_true_eq] at hu
        exact (h.resumeParked hw' hu.1 t x n).leaveUnitWait (giveUnit_not_unitWait _ _ _ _)
      · split
        · exact hdraw t x (choosePool_ne_nil ‹_›)
        · exact h.noUnitFound hw t x
    · split
      · exact hdraw t x (choosePool_ne_nil ‹_›)
      · exact h.noUnitFound hw t x

/-! ### Full halves -/

theorem halfFull (h : s.Sound C L e none) (k : HalfId) (closing : Bool) : (s.halfFull l k closing).Sound C L e none := by
  have hfull : SameCore s (s.modHalf l k (fun v => { v with state := .full })) := (SameCore.refl s).modHalf
  unfold State.halfFull
  dsimp only
  split
  · refine ite_keeps (Sound.takeUnit ?_ (.inl rfl)) ?_ <;>
      exact h.core (ite_keeps hfull.assignHalf hfull.assignHalf.refillOther)
  · refine h.core (ite_keeps ?_ (SameCore.refillOther ?_)) <;> exact ite_keeps hfull.modLane hfull

end State.Sound

namespace SameCore

variable {q s : State} {l : Nat} (h : SameCore q s)
include h

/-- A lane that is being closed takes no unit when a half of it becomes FULL (R71). -/
theorem halfFull_closing {k} : SameCore q (s.halfFull l k true) := by
  have hfull : SameCore q (s.modHalf l k (fun v => { v with state := .full })) := h.modHalf
  unfold State.halfFull
  dsimp only
  split
  · rw [if_neg (by simp)]
    exact hfull.assignHalf
  · rw [if_pos rfl]
    exact ite_keeps hfull.modLane hfull

theorem padHalf_closing {k} : SameCore q (s.padHalf l k true) := by
  unfold State.padHalf
  dsimp only
  split
  · exact h.modHalf.modTenantCounters.halfFull_closing
  · exact h.modHalf.halfFull_closing

theorem padFilling_closing : SameCore q (s.padFilling l true) := by
  unfold State.padFilling
  split
  · exact ite_keeps h.padHalf_closing h
  · exact h

end SameCore

namespace State.Sound

variable {C L : Prop} {e : Allow} {s : State} {l : Nat}

theorem padHalf (h : s.Sound C L e none) (k : HalfId) (closing : Bool) : (s.padHalf l k closing).Sound C L e none := by
  have hpad := (SameCore.refl s).modHalf (l := l) (k := k)
    (f := fun v => { v with slots := v.slots ++ List.replicate (Config.stripeSlots - (s.half l k).realCount) .pad })
  unfold State.padHalf
  dsimp only
  split
  · exact (h.core hpad.modTenantCounters).halfFull k closing
  · exact (h.core hpad).halfFull k closing

theorem padFilling (h : s.Sound C L e none) (closing : Bool) : (s.padFilling l closing).Sound C L e none := by
  unfold State.padFilling
  split
  · exact ite_keeps (h.padHalf _ closing) h
  · exact h

theorem assignInTurn {halves : List HalfId} {ask : Bool} (h : s.Sound C L e none) :
    (assignInTurn l halves ask s).Sound C L e none := by
  induction halves generalizing s ask with
  | nil => exact h
  | cons k rest ih =>
    unfold Machine.assignInTurn
    dsimp only
    have htake := ite_keeps (c := ((s.lane l).current.isNone && ask) = true) (h.takeUnit (l := l) (.inl rfl)) h
    generalize (if ((s.lane l).current.isNone && ask) = true then s.takeUnit l else s) = p at htake ⊢
    split
    · exact ih (htake.halfFull k _)
    · exact htake.core (SameCore.refl _).markFirst

theorem unitArrived (h : s.Sound C L e none) : (s.unitArrived l).Sound C L e none := h.assignInTurn

/-! ### Closing -/

/-- A lane that is not bound becomes FREE (R76). -/
theorem freeLane (h : s.Sound C L e none) (hb : (s.lane l).isBound = false) : (s.freeLane l).Sound C L e none := by
  have hlane : (s.modLane l (fun v => { Lane.reset with failRun := v.failRun })).Sound C L e none := by
    refine Sound.placed (l := l) ?_ fun hs => ?_
    · exact h.setLane (.inl rfl) (Lane.held_of_not_bound hb).symm hb.symm (.inr rfl) fun hn => absurd rfl hn
    · rw [modLane_lane, if_pos rfl] at hs
      cases hs
  exact ite_keeps (hlane.core (SameCore.refl _).raiseFreed) hlane

theorem park (h : s.Sound C L e none) (t x u n : Nat) : (s.park t x u n).Sound C L e none := by
  have haside := h.setAside u
  have hstream := haside.core ((SameCore.refl _).modStream (t := t) (x := x) (f := fun v => { v with parkedUnit := some (u, n) }))
  unfold State.park
  dsimp only
  split
  · exact Sound.core hstream (SameCore.refl _).requestSeal
  · exact hstream

theorem park_links (s : State) (t x u n : Nat) : SameLinks s (s.park t x u n) := by
  have hunit : SameLinks s (s.modUnit u UnitRec.setAside) := (SameLinks.refl s).setUnit
  have hstream : SameLinks s ((s.modUnit u UnitRec.setAside).modStream t x (fun v => { v with parkedUnit := some (u, n) })) :=
    hunit.trans (SameCore.refl _).modStream.links
  have hparked := hstream.withParked (n := if (s.unit u).state = UnitState.opened then s.parked + 1 else s.parked)
  unfold State.park
  dsimp only
  split
  · exact hparked.trans (SameCore.refl _).requestSeal.links
  · exact hparked

theorem closingComplete (h : s.Sound C L e none) (hb : (s.lane l).isBound = false) :
    (s.closingComplete l).Sound C L e none := by
  unfold State.closingComplete
  split
  · rename_i u n t x _ _
    have hseal : (s.requestSeal u).Sound C L e none := h.core (SameCore.refl s).requestSeal
    have hbound : ((s.park t x u n).lane l).isBound = false := (Lane.isBound_congr ((park_links s t x u n).lanes l)).trans hb
    exact ite_keeps hseal (ite_keeps ((h.park t x u n).freeLane hbound) hseal)
  · exact h.freeLane hb

theorem closeIfDrained (h : s.Sound C L e none) : (s.closeIfDrained l).Sound C L e none := by
  unfold State.closeIfDrained
  split
  · rename_i hc
    simp only [Bool.and_eq_true, decide_eq_true_eq] at hc
    exact h.closingComplete (Lane.isBound_of_state hc.1 nofun nofun)
  · exact h

/-! ### Lanes that let go -/

/-- What remains of a detached lane: it is CLOSING and names its stream (R74). -/
theorem detach_eq (s : State) (l t x : Nat) :
    s.detach l t x = ((s.padFilling l true).dropEmptyFilling l).letGo l t x
      { ((s.padFilling l true).dropEmptyFilling l).lane l with state := .closing } := by
  unfold State.detach
  generalize (s.padFilling l true).dropEmptyFilling l = p
  rfl

theorem detach_state (s : State) (l t x : Nat) : ((s.detach l t x).lane l).state = .closing := by
  rw [detach_eq, letGo_lane, if_pos rfl]

section
variable {t x : Nat} (h : s.Sound C L e none) (hh : (s.lane l).held = some (t, x)) {V : Nat → Option (Nat × Nat) → Prop}
  {X : Nat → Int} (hV : ∀ k, k ≠ l → ∀ p, e.view k p → V k p) (hVl : V l none)
  (hX : ∀ n, e.excess n ≤ X n + if n = t then 1 else 0)
include h hh hV hVl hX

theorem detach : (s.detach l t x).Sound C L { e with view := V, excess := X } none := by
  have hcore : SameCore s ((s.padFilling l true).dropEmptyFilling l) := (SameCore.refl s).padFilling_closing.dropEmptyFilling
  have hheld : (((s.padFilling l true).dropEmptyFilling l).lane l).held = some (t, x) :=
    (Lane.held_congr (hcore.lanes l)).trans hh
  rw [detach_eq]
  refine (h.core hcore).letGo hheld ?_ ?_ (fun _ => ?_) hV hVl hX
  · exact Lane.isBound_of_state (st := .closing) rfl nofun nofun
  · exact .inl rfl
  · rw [show _ = some (t, x) from (Lane.held_eq_some.mp hheld).2]
    exact nofun

/-- Eviction (R74, R75). -/
theorem evict : (s.evict l).Sound C L { e with view := V, excess := X } none := by
  have hcount := (h.detach hh hV hVl hX).core ((SameCore.refl _).countEviction (t := t))
  have hclosing : (((s.detach l t x).countEviction t).lane l).state ≠ .unitWait := by
    rw [(Lane.view_eq.mp ((SameCore.refl (s.detach l t x)).countEviction.lanes l)).1, detach_state]
    exact nofun
  unfold State.evict
  rw [(Lane.held_eq_some.mp hh).2]
  exact Sound.core (ite_keeps (hcount.leaveUnitWait hclosing) hcount).closeIfDrained (SameCore.refl _).raiseHead

/-- The closing of a lane at the final close (R169). -/
theorem closeFinally : (s.closeFinally l).Sound C L { e with view := V, excess := X } none := by
  have hdetach := h.detach hh hV hVl hX
  have hclosing : ((s.detach l t x).lane l).state ≠ .unitWait := by
    rw [detach_state]
    exact nofun
  unfold State.closeFinally
  rw [(Lane.held_eq_some.mp hh).2]
  exact (hdetach.leaveUnitWait hclosing).assignInTurn.closeIfDrained

end

end State.Sound

end Sys2Proof.Machine

/-! ## Binding and the service of a head -/

namespace Sys2Proof.Machine

/-- The excess of tenant t alone. -/
def excessOf (t : Nat) (n : Int) : Nat → Int := fun m => if m = t then n else 0

/-- Where a FREE lane is bound: it stays so until then. -/
def staysFree (l : Nat) : Nat → Option (Nat × Nat) → Prop := fun k p => k = l → p = none

namespace State.Sound

variable {C L : Prop} {e : Allow} {s : State} {l t x : Nat}

/-- A tenant with bound lanes has a least recent one (R61). -/
theorem leastRecentOf_ne_none (h : s.Sound C L e none) (hpos : 0 < (s.tenant t).bound) : s.leastRecentOf t ≠ none := by
  rw [h.bound] at hpos
  obtain ⟨l, x, hl⟩ := exists_held_of_boundCount h.tabled (n := t) (by omega)
  obtain ⟨hb, hs⟩ := Lane.held_eq_some.mp hl
  intro hnone
  have hout := List.find?_eq_none.mp hnone l ((h.recency l).mpr hb)
  simp [Lane.belongsTo, hs] at hout

/-- The least recent lane of a tenant holds one of its streams. -/
theorem held_leastRecentOf (h : s.Sound C L e none) (hl : s.leastRecentOf t = some l) :
    ∃ x, (s.lane l).held = some (t, x) := by
  have hb := (h.recency l).mp (List.mem_of_find?_eq_some hl)
  have ht := List.find?_some hl
  unfold Lane.belongsTo at ht
  split at ht
  · rename_i n x hs
    simp only [decide_eq_true_eq] at ht
    exact ⟨x, Lane.held_eq_some.mpr ⟨hb, ht ▸ hs⟩⟩
  · cases ht

theorem selfEvict (h : s.Sound C L e none) (hpos : L → s.device ≠ .holding → 0 < (s.tenant t).bound) {X : Nat → Int}
    (hV : ∀ k, e.view k none) (hX : ∀ n, e.excess n ≤ X n + if n = t then 1 else 0) :
    (s.selfEvict t).Sound C L { e with excess := X } none := by
  unfold State.selfEvict
  split
  · rename_i l hl
    obtain ⟨x, hh⟩ := h.held_leastRecentOf hl
    exact h.evict hh (fun _ _ _ hp => hp) (hV l) hX
  · rename_i hl
    exact h.ease (fun hL hd => absurd hl (h.leastRecentOf_ne_none (hpos hL hd))) h.view

/-- A stream that is about to be bound is bound to a lane that is not bound, and has a unit or waits for one (R64). -/
theorem bindLane (h : s.Sound C L e none) (he : e.late = some (t, x)) (hc : e.shut = none)
    (hX : ∀ n, e.excess n ≤ excessOf t (-1) n) (hb : (s.lane l).isBound = false) (hd : s.device ≠ .holding) :
    (s.bindLane l t x).Sound C L {} none := by
  have hbind := h.bindTo (v := { s.lane l with
    state := .unitWait, stream := some (t, x), halfA := { (s.lane l).halfA with state := .filling } }) he hc hX hb rfl rfl
  exact (hbind.takeUnit (.inr ⟨rfl, hd⟩)).core (SameCore.refl _).noteBound

theorem atQuota_eq_false {v : Tenant} (h : ¬v.atQuota = true) : (v.bound : Int) ≤ v.active.laneQuota + -1 := by
  simp only [Tenant.atQuota, decide_eq_true_eq, not_le] at h
  omega

/-- The tenant makes room for one more lane within its quota (R65, R66). -/
theorem makeRoom (h : s.Sound C L e none) (hV : ∀ k, e.view k none) (hX : e.excess = fun _ => 0) :
    (if (s.tenant t).atQuota = true then s.selfEvict t else s).Sound C L { e with excess := excessOf t (-1) } none := by
  split
  · rename_i hquota
    refine h.selfEvict (fun hL _ => ?_) hV fun n => ?_
    · simp only [Tenant.atQuota, decide_eq_true_eq] at hquota
      exact lt_of_lt_of_le ((h.linked hL).records t).1 hquota
    · rw [hX]
      unfold excessOf
      split <;> simp
  · rename_i hquota
    refine h.ease (fun hL hd n => ?_) h.view
    have hn := (h.linked hL).quota hd n
    rw [hX] at hn
    unfold excessOf
    split
    · rename_i e
      rw [e]
      exact atQuota_eq_false hquota
    · exact hn

theorem makeRoom_device (s : State) (t : Nat) : (if (s.tenant t).atQuota = true then s.selfEvict t else s).device = s.device :=
  ite_keeps (P := fun q => q.device = s.device) ((closed_device s.device).selfEvict rfl) rfl

/-- FREE lane l goes to the stream that has waited longest (R65). -/
theorem handOver (h : s.Sound C L {} none) : (s.handOver l).Sound C L {} none := by
  unfold State.handOver
  split
  · exact h
  rename_i t x rest hq
  split
  case isFalse => exact h
  rename_i hfree
  simp only [Bool.and_eq_true, decide_eq_true_eq] at hfree
  obtain ⟨hfree, hd⟩ := hfree
  have hpop : { s with laneWait := rest }.Sound C L { late := some (t, x), view := staysFree l } none := by
    refine (h.popLaneWait hq rfl).ease (fun hL => (h.linked hL).quota) fun k hk => ?_
    rw [hk]
    exact Lane.held_of_not_bound (Lane.isBound_of_state hfree nofun nofun)
  have hroom := hpop.makeRoom (t := t) (fun _ _ => rfl) rfl
  exact hroom.bindLane rfl rfl (fun _ => le_rfl) (hroom.held_eq_none.mp (hroom.view l rfl))
    fun e => hd ((makeRoom_device { s with laneWait := rest } t).symm.trans e)

/-- After a stream has joined the lane wait queue (R65, R66). -/
theorem afterJoin (h : s.Sound C L e none) : s.afterJoin.Sound C L e none := by
  unfold State.afterJoin
  split
  · exact h.core (SameCore.refl _).raiseFreed.raiseCheck
  · exact h.core (SameCore.refl _).raiseCheck

/-- A bind request for a stream that is neither bound nor waiting (R66). -/
theorem bindRequest (h : s.Sound C L {} none) (hd : s.device ≠ .holding)
    (hl : L → x < 8 ∧ (∀ l, (s.stream t x).binding ≠ .bound l) ∧ (t, x) ∉ s.laneWait ∧ (s.tenant t).isOpen = true) :
    (s.bindRequest t x).Sound C L {} none := by
  have hlate : s.Sound C L { late := some (t, x) } none :=
    h.expect rfl fun hL => ⟨(hl hL).1, (hl hL).2.1, (hl hL).2.2.1, fun _ => (hl hL).2.2.2⟩
  have hroom := hlate.makeRoom (t := t) (fun _ => trivial) rfl
  have hjoin : ∀ {q : State}, q.Sound C L { late := some (t, x), excess := excessOf t (-1) } none →
      ((q.joinLaneWait t x).afterJoin).Sound C L {} none := fun {q} hq => by
    have hjoined := (hq.joinLaneWait rfl).afterJoin
    refine hjoined.ease (fun hL hd n => ?_) fun _ => trivial
    have hn := (hjoined.linked hL).quota hd n
    have hle : excessOf t (-1) n ≤ 0 := by
      unfold excessOf
      split <;> decide
    dsimp only at hn ⊢
    omega
  unfold State.bindRequest
  split at hroom
  · rw [if_pos ‹_›]
    exact hjoin hroom
  · rw [if_neg ‹_›]
    split
    · rename_i l _ hfree
      have hl := List.find?_some hfree
      simp only [decide_eq_true_eq] at hl
      exact hroom.bindLane rfl rfl (fun _ => le_rfl) (Lane.isBound_of_state hl nofun nofun) hd
    · exact hjoin hroom

/-! ### The head of a queue -/

/-- The lane step of a head (R45). -/
theorem laneStep (h : s.Sound C L {} none) (hd : s.device ≠ .holding) (hl : L → x < 8 ∧ (s.tenant t).isOpen = true) :
    (s.laneStep t x).Sound C L {} none := by
  unfold State.laneStep
  split
  · exact h.core (SameCore.refl _).headAt
  · exact h.core (SameCore.refl _).headAt
  · rename_i hb
    refine (h.core ((SameCore.refl s).headAt (t := t) (step := .lane))).bindRequest hd fun hL => ?_
    refine ⟨(hl hL).1, fun l => ?_, fun hm => ?_, (hl hL).2⟩
    · rw [show (s.headAt t .lane).stream t x = s.stream t x from rfl, hb]
      exact nofun
    · have hw := ((h.linked hL).laneWait t x hm).2.1
      rw [hb] at hw
      cases hw

theorem halfStep (h : s.Sound C L {} none) (hd : s.device ≠ .holding) (hl : L → x < 8 ∧ (s.tenant t).isOpen = true) :
    (s.halfStep t x).Sound C L {} none := by
  unfold State.halfStep
  split
  · exact ite_keeps (h.core (SameCore.refl _).headAt) h
  · exact h.laneStep hd hl

theorem settleAndBind (h : s.Sound C L {} none) (hd : s.device ≠ .holding) {f : Frame}
    (hl : L → f.stream < 8 ∧ (s.tenant t).isOpen = true) : (s.settleAndBind t f).Sound C L {} none := by
  have hcore : SameCore s (s.creditStep t f) := (SameCore.refl s).creditStep
  unfold State.settleAndBind
  dsimp only
  split
  · refine ite_keeps (h.core hcore) ((h.core hcore).laneStep (hcore.device ▸ hd) fun hL => ?_)
    rw [(hcore.tenants t).isOpen]
    exact hl hL
  · exact h.core hcore

/-- The head of a tenant's queue is served (R43). -/
theorem serveHead (h : s.Sound C L {} none) : (s.serveHead t).Sound C L {} none := by
  unfold State.serveHead
  split
  case isFalse => exact h
  rename_i hserves
  have hd : s.device ≠ .holding := by
    simp only [State.servesHead, Bool.and_eq_true, decide_eq_true_eq] at hserves
    rw [hserves.1]
    decide
  split
  · exact h
  · rename_i f hf
    have hl : L → f.stream < 8 ∧ (s.tenant t).isOpen = true := fun hL => by
      have ht := List.find?_some hf
      simp only [decide_eq_true_eq] at ht
      obtain ⟨hx, ho⟩ := (h.linked hL).frames f (List.mem_of_find?_eq_some hf)
      exact ⟨hx, ht ▸ ho⟩
    split
    · exact h
    · exact h.halfStep hd hl
    · exact h.settleAndBind hd hl

/-! ### The work list -/

/-- One comparison of the eviction check (R67). -/
theorem checkOnce (h : s.Sound C L {} none) : s.checkOnce.Sound C L {} none := by
  have hended : { s with work := { s.work with check := false } }.Sound C L {} none := h.core .records
  unfold State.checkOnce
  dsimp only
  split
  · split
    · rename_i l hl
      have hb := (h.recency l).mp (List.mem_of_find?_eq_some hl)
      obtain ⟨⟨t, x⟩, hh⟩ := Option.ne_none_iff_exists'.mp (h.held_ne_none hb)
      exact h.evict hh (fun _ _ _ hp => hp) trivial fun n => by split <;> simp
    · exact hended
  · exact hended

/-- One look at the head of the unit wait queue (R95). -/
theorem serviceOnce (h : s.Sound C L {} none) : s.serviceOnce.Sound C L {} none := by
  have hended : { s with work := { s.work with serveUnits := false } }.Sound C L {} none := h.core .records
  unfold State.serviceOnce
  dsimp only
  split
  · exact hended
  · rename_i l rest hq
    split
    · exact hended
    · split
      · rename_i hg
        have honce := h.unitWaitOnce
        rw [hq, List.nodup_cons] at honce
        have hpop : { s with unitWait := rest }.Sound C L {} (some l) := h.withUnitWait honce.2 fun k hk hs => by
          have hm := h.unitWait k nofun hs
          rw [hq] at hm
          exact (List.mem_cons.mp hm).resolve_left fun e => hk (e ▸ rfl)
        have hne := choosePool_ne_nil hg
        exact (hpop.drawUnit (.inr rfl) hne _ _).unitArrived
      · exact hended

end State.Sound

end Sys2Proof.Machine

/-! ## The final close and the cascade -/

namespace Sys2Proof.Machine

theorem mem_laneIds {s : State} {l : Nat} (h : (s.lane l).state ≠ .free) : l ∈ s.laneIds := by
  by_contra hl
  refine h ?_
  rw [show s.lane l = Lane.reset from rowOf_of_not_mem _ hl]
  rfl

theorem mem_laneIds_of_held {s : State} {l : Nat} {p : Nat × Nat} (h : (s.lane l).held = some p) : l ∈ s.laneIds := by
  refine mem_laneIds fun hf => ?_
  have hb := (Lane.held_eq_some.mp h).1
  rw [Lane.isBound_of_state hf nofun nofun] at hb
  cases hb

theorem mem_boundLanesOf {s : State} {t l : Nat} : l ∈ s.boundLanesOf t ↔ ∃ x, (s.lane l).held = some (t, x) := by
  unfold State.boundLanesOf
  rw [List.mem_filter, Lane.counts_eq]
  constructor
  · rintro ⟨-, h⟩
    cases hp : (s.lane l).held with
    | none =>
      rw [hp] at h
      cases h
    | some p =>
      rw [hp] at h
      simp only [Option.any_some, decide_eq_true_eq] at h
      exact ⟨p.2, by rw [← h]⟩
  · rintro ⟨x, h⟩
    exact ⟨mem_laneIds_of_held h, by rw [h]; simp⟩

theorem clearStream_laneWait (t : Nat) (s : State) (x : Nat) :
    (State.clearStream t s x).laneWait = s.laneWait.filter (fun e => e ≠ (t, x)) := by
  unfold State.clearStream
  exact ((SameCore.refl { s with laneWait := s.laneWait.filter (fun e => e ≠ (t, x)) }).displaceParked).laneWait

/-- Streams cleared one after the other stand in the lane wait queue no longer (R170). -/
theorem clearStreams_laneWait {t : Nat} {xs : List Nat} {s : State} {p : Nat × Nat}
    (h : p ∈ (xs.foldl (State.clearStream t) s).laneWait) : p ∈ s.laneWait ∧ ∀ x ∈ xs, p ≠ (t, x) := by
  induction xs generalizing s with
  | nil => exact ⟨h, nofun⟩
  | cons y rest ih =>
    obtain ⟨hp, hrest⟩ := ih h
    rw [clearStream_laneWait, List.mem_filter] at hp
    refine ⟨hp.1, fun x hx => ?_⟩
    rcases List.mem_cons.mp hx with rfl | hx
    · simpa using hp.2
    · exact hrest x hx

/-- The bound lanes of tenant t are those of a list. -/
def closesAt (V : Nat → Option (Nat × Nat) → Prop) (t : Nat) (ls : List Nat) : Nat → Option (Nat × Nat) → Prop :=
  fun k p => V k p ∧ ((∃ x, p = some (t, x)) ↔ k ∈ ls)

theorem closing_weight (v : Tenant) (d : Option Drain) : ({ v with drain := d } : Tenant).weight = v.weight := rfl

namespace State.Sound

variable {C L : Prop} {e : Allow} {s : State} {t x : Nat} {V : Nat → Option (Nat × Nat) → Prop}

/-- A stream of a tenant whose final close is under way is cleared (R170). -/
theorem clearStream (h : s.Sound C L e none) (he : e.late = none) (hs : e.shut = some t) (hx : x < 8)
    (hh : L → ∀ l, (s.lane l).held ≠ some (t, x)) : (State.clearStream t s x).Sound C L e none := by
  have hfree : L → ∀ l, (s.stream t x).binding ≠ .bound l := fun hL l hb => hh hL l ((h.linked hL).boundStream t x l hx hb)
  have hgone : (t, x) ∉ s.laneWait.filter (fun e => e ≠ (t, x)) := fun hm => by simp at hm
  have hleft := h.leaveLaneWait (t := t) (x := x) (q := s.laneWait.filter (fun e => e ≠ (t, x))) List.filter_sublist
    (fun p hp hne => List.mem_filter.mpr ⟨hp, by simpa using hne⟩) hgone he fun hL => ⟨hx, hfree hL, fun hn => absurd hs hn⟩
  have hcore := (SameCore.refl ({ s with laneWait := s.laneWait.filter (fun e => e ≠ (t, x)) } : State)).displaceParked
    (t := t) (x := x)
  have hunbound : (State.clearStream t s x).Sound C L { e with late := none } none := by
    refine (hleft.core hcore).unbind (.inr rfl) (fun hL => ⟨hx, fun l => ?_, ?_⟩) rfl
    · rw [hcore.bindings]
      exact hfree hL l
    · rw [hcore.laneWait]
      exact hgone
  rwa [← he] at hunbound

/-- The lanes of a tenant are closed one after the other (R169). -/
theorem closeLanes {ls : List Nat} (hls : ls.Nodup) (hV : ∀ k, V k none)
    (h : s.Sound C L { shut := some t, view := closesAt V t ls } none) :
    (ls.foldl State.closeFinally s).Sound C L { shut := some t, view := closesAt V t [] } none := by
  induction ls generalizing s with
  | nil => exact h
  | cons l rest ih =>
    obtain ⟨hl, hrest⟩ := List.nodup_cons.mp hls
    obtain ⟨x, hh⟩ := (h.view l).2.mpr List.mem_cons_self
    refine ih hrest (h.closeFinally hh (fun k hk p hp => ⟨hp.1, hp.2.trans ?_⟩) ⟨hV l, ?_⟩ fun n => ?_)
    · rw [List.mem_cons, or_iff_right hk]
    · simpa using hl
    · split <;> simp

/-- The streams of a tenant without a bound lane are cleared one after the other (R170). -/
theorem clearStreams {xs : List Nat} (hxs : ∀ x ∈ xs, x < 8)
    (h : s.Sound C L { shut := some t, view := closesAt V t [] } none) :
    (xs.foldl (State.clearStream t) s).Sound C L { shut := some t, view := closesAt V t [] } none := by
  induction xs generalizing s with
  | nil => exact h
  | cons x rest ih =>
    refine ih (fun y hy => hxs y (List.mem_cons_of_mem _ hy)) (h.clearStream rfl rfl (hxs x List.mem_cons_self) fun _ l hl => ?_)
    simpa using (h.view l).2.mp ⟨x, hl⟩

/-- The final close is taken (R169). -/
theorem markClosed (h : s.Sound C L { view := V } none) (hd : (s.tenant t).state = .draining) (hq : L → s.queueOf t = []) :
    (s.markClosed t).Sound C L { shut := some t, view := V } none := by
  refine h.setTenant rfl (.inr ⟨rfl, rfl⟩) rfl rfl ?_ (fun hL => ⟨fun _ => .inr ⟨rfl, hq hL⟩, fun _ => .inl (.inr hd), ?_⟩)
    fun hL hdev => ⟨(h.linked hL).quota hdev t, fun _ _ => le_rfl⟩
  · rw [closing_weight]
    have := h.floors
    omega
  · exact (h.linked hL).records t

/-- The final close of a tenant whose queue is empty (R169, R170). -/
theorem finalClose (h : s.Sound C L { view := V } none) (hV : ∀ k, V k none) (hd : (s.tenant t).state = .draining)
    (hq : L → s.queueOf t = []) : (s.finalClose t).Sound C L { view := V } none := by
  have hmark := h.markClosed hd hq
  have hnodup : ((s.markClosed t).boundLanesOf t).Nodup := (nodup_rowKeys hmark.tabled.lanes).filter _
  have hlisted : (s.markClosed t).Sound C L { shut := some t, view := closesAt V t ((s.markClosed t).boundLanesOf t) } none :=
    hmark.ease (fun hL => (hmark.linked hL).quota) fun k => ⟨hmark.view k, mem_boundLanesOf.symm⟩
  have hclear := (hlisted.closeLanes hnodup hV).clearStreams (xs := allStreams) fun x hx => by
    simpa [allStreams, Config.streamCount] using hx
  have hclosed := hclear.closed rfl rfl (fun _ l x hl => by simpa using (hclear.view l).2.mp ⟨x, hl⟩) fun hL x hm => by
    have hx := ((hclear.linked hL).laneWait t x hm).1
    exact (clearStreams_laneWait hm).2 x (by simpa [allStreams, Config.streamCount] using hx) rfl
  exact (hclosed.ease (fun hL => (hclosed.linked hL).quota) fun k => (hclosed.view k).1).core (SameCore.refl _).raiseCheck

/-! ### The cascade -/

theorem laneStepOnce {q : State} (hq : s.laneStepOnce = some q) (h : s.Sound C L {} none) : q.Sound C L {} none := by
  unfold State.laneStepOnce at hq
  split at hq
  · cases hq
    exact h.serviceOnce
  · split at hq
    · cases hq
      exact Sound.handOver (h.core .records)
    · split at hq
      · cases hq
        exact h.checkOnce
      · cases hq

theorem closeDue (hq : s.closeDue = some t) : (s.tenant t).state = .draining ∧ s.queueOf t = [] := by
  unfold State.closeDue at hq
  split at hq
  · cases hq
  · have ht := List.find?_some hq
    simp only [Bool.and_eq_true, decide_eq_true_eq, Tenant.inFrames_iff] at ht
    exact ⟨ht.1.1, ht.2⟩

theorem workStep {q : State} (hq : s.workStep = some q) (h : s.Sound C L {} none) : q.Sound C L {} none := by
  unfold State.workStep at hq
  split at hq
  · rename_i hlane
    cases hq
    exact h.laneStepOnce hlane
  · split at hq
    · cases hq
      exact Sound.serveHead (h.core .records)
    · obtain ⟨t, ht, rfl⟩ := Option.map_eq_some_iff.mp hq
      obtain ⟨hd, hempty⟩ := Sound.closeDue ht
      exact h.finalClose (fun _ => trivial) hd fun _ => hempty

theorem runLanes (h : s.Sound C L {} none) : s.runLanes.Sound C L {} none :=
  Closed.cascade (P := fun q => q.Sound C L {} none) (fun hq hs => hs.laneStepOnce hq) h

theorem runWork (h : s.Sound C L {} none) : s.runWork.Sound C L {} none :=
  Closed.cascade (P := fun q => q.Sound C L {} none) (fun hq hs => hs.workStep hq) h

end State.Sound

end Sys2Proof.Machine

/-! ## The loss of halves, the hold-up flush and the end of a drain -/

namespace Sys2Proof.Machine

/-- The lanes that hold a stream are those of a list. -/
def holdsAt (ls : List Nat) : Nat → Option (Nat × Nat) → Prop := fun k p => p ≠ none ↔ k ∈ ls

theorem mem_boundLanes {s : State} {C L : Prop} {e : Allow} {w : Option Nat} (h : s.Sound C L e w) (l : Nat) :
    l ∈ s.boundLanes ↔ (s.lane l).held ≠ none := by
  unfold State.boundLanes
  rw [List.mem_filter, ne_eq, h.held_eq_none, Bool.not_eq_false]
  refine ⟨And.right, fun hb => ⟨mem_laneIds fun hf => ?_, hb⟩⟩
  rw [Lane.isBound_of_state hf nofun nofun] at hb
  cases hb

/-- What the end of a hold-up flush leaves of a bound lane (R181). -/
def Lane.freed (v : Lane) : Lane := { Lane.reset with failRun := v.failRun }

/-- The current unit of a lane is parked for stream x of tenant t (R181). -/
def State.parkCurrent (s : State) (l t x : Nat) : State :=
  match (s.lane l).current with
  | some (u, n) => s.park t x u n
  | none => s

theorem holdFree_eq {s : State} {l t x : Nat} (hs : (s.lane l).stream = some (t, x)) :
    s.holdFree l = { (s.parkCurrent l t x).letGo l t x ((s.parkCurrent l t x).lane l).freed with
      unitWait := (s.parkCurrent l t x).unitWait.erase l } := by
  unfold State.holdFree
  rw [hs]
  rfl

theorem parkCurrent_links (s : State) (l t x : Nat) : SameLinks s (s.parkCurrent l t x) := by
  unfold State.parkCurrent
  split
  · exact State.Sound.park_links s t x _ _
  · exact SameLinks.refl s

namespace State.Sound

variable {C L : Prop} {e : Allow} {s : State} {l : Nat}

/-! ### Halves that are placed or lost (R80, R179, R180) -/

theorem afterEmpty (h : s.Sound C L e none) (k : HalfId) : (s.afterEmpty l k).Sound C L e none := by
  unfold State.afterEmpty
  dsimp only
  split
  · split
    · split
      · exact h.core (SameCore.refl _).modHalf.raiseHead
      · exact h.core (SameCore.refl _).modHalf
    · exact h
  · exact h.closeIfDrained

theorem completeHalf (h : s.Sound C L e none) (k : HalfId) : (s.completeHalf l k).Sound C L e none := by
  unfold State.completeHalf
  dsimp only
  refine Sound.afterEmpty (Sound.core (s := s) h ?_) k
  split
  · exact (SameCore.refl s).recordPlaced.emptyHalf
  · exact (SameCore.refl s).emptyHalf

theorem loseWaiting (h : s.Sound C L e none) : (s.loseWaiting l).Sound C L e none := by
  unfold State.loseWaiting
  split
  · exact h
  · have hcore : SameCore s (((s.lane l).waitingHalves.foldl (State.loseHalf l) s).modLane l
        (fun v => { v with firstFull := none })) :=
      SameCore.modLane (SameCore.foldl (SameCore.refl s) (fun _ _ hp => hp.loseHalf) _)
    have hlost := h.core hcore
    dsimp only
    split
    · exact hlost.waitForUnit (.inl rfl) ‹_›
    · exact (hlost.leaveUnitWait (Lane.not_unitWait_of_not_bound (Bool.eq_false_iff.mpr ‹_›))).closeIfDrained

theorem holdTake (h : s.Sound C L e none) : (s.holdTake l).Sound C L e none := Sound.loseWaiting h.assignInTurn

theorem holdWalk (h : s.Sound C L e none) : (s.holdWalk l).Sound C L e none := ite_keeps h h.holdTake

theorem reissue (h : s.Sound C L e none) (k : HalfId) (u : Nat) : (s.reissue l k u).Sound C L e none := by
  have hassigned : ∀ order, (Machine.assignInTurn l order true (s.releaseFailed l k u)).Sound C L e none := fun order =>
    Sound.assignInTurn (h.core (SameCore.refl s).releaseFailed)
  exact ite_keeps (hassigned _).loseWaiting (hassigned _)

/-! ### Entry to HOLDING (R178) -/

theorem enterHolding (h : s.Sound C L {} none) : s.enterHolding.Sound C L {} none := by
  have hstart : ({ s with device := .holding, lost := 0, epochTimer := none, intake := [] } : State).Sound C L {} none := { h with
    tabled := ⟨h.tabled.tenants, h.tabled.lanes, h.tabled.units⟩
    started := fun _ => nofun
    linked := fun hL =>
      have k := h.linked hL
      { k with
        intake := fun _ => rfl
        frames := nofun
        quota := fun hd => absurd rfl hd } }
  have hcore : SameCore { s with device := .holding, lost := 0, epochTimer := none }
      (s.holdStart.endFrames (fun _ => true) holdStatus byTenant) :=
    ((SameCore.refl _).foldl (fun _ _ hp => hp.stopTimer) _).endFrames
  have hintake : (s.holdStart.endFrames (fun _ => true) holdStatus byTenant).intake = [] := by
    obtain ⟨_, _, hend⟩ := endFrames_only s.holdStart (fun _ => true) holdStatus byTenant
    rw [hend]
    simp
  have hended : SameCore { s with device := .holding, lost := 0, epochTimer := none, intake := [] }
      (s.holdStart.endFrames (fun _ => true) holdStatus byTenant) :=
    { hcore with
      tabled := fun ht => hcore.tabled ⟨ht.tenants, ht.lanes, ht.units⟩
      came := fun g hg => by
        rw [hintake] at hg
        cases hg }
  have hscan : (s.holdStart.endFrames (fun _ => true) holdStatus byTenant).abandonScan.Sound C L {} none :=
    (hstart.core hended).core (ite_keeps (P := SameCore _) .records (.refl _))
  unfold State.enterHolding
  exact foldl_closed (P := fun q => q.Sound C L {} none) (fun _ _ => Sound.holdWalk) _
    (foldl_closed (P := fun q => q.Sound C L {} none) (fun _ _ hq => hq.padFilling false) _ hscan)

/-! ### The end of a hold-up flush (R181) -/

theorem parkCurrent (h : s.Sound C L e none) (l t x : Nat) : (s.parkCurrent l t x).Sound C L e none := by
  unfold State.parkCurrent
  split
  · exact h.park t x _ _
  · exact h

/-- The bound lanes become FREE one after the other (R181). -/
theorem holdFrees {ls : List Nat} (hls : ls.Nodup) (h : s.Sound C L { view := holdsAt ls } none) :
    (ls.foldl State.holdFree s).Sound C L { view := holdsAt [] } none := by
  induction ls generalizing s with
  | nil => exact h
  | cons l rest ih =>
    obtain ⟨hl, hrest⟩ := List.nodup_cons.mp hls
    obtain ⟨⟨t, x⟩, hh⟩ := Option.ne_none_iff_exists'.mp ((h.view l).mpr List.mem_cons_self)
    have hlinks := parkCurrent_links s l t x
    have hparked := h.parkCurrent l t x
    have hgone := hparked.letGo (v := ((s.parkCurrent l t x).lane l).freed) (V := holdsAt rest) (X := fun _ => 0)
      ((Lane.held_congr (hlinks.lanes l)).trans hh) rfl (.inr rfl) (fun hn => absurd rfl hn)
      (fun k hk p hp => hp.trans (by rw [List.mem_cons, or_iff_right hk])) (by simpa [holdsAt] using hl)
      fun n => by split <;> simp
    have hfree := (letGo_lane (s.parkCurrent l t x) l t x ((s.parkCurrent l t x).lane l).freed l).trans (if_pos rfl)
    have hkeep : ∀ k, none ≠ some k → (((s.parkCurrent l t x).letGo l t x ((s.parkCurrent l t x).lane l).freed).lane k).state =
        .unitWait → k ∈ (s.parkCurrent l t x).unitWait.erase l := fun k hk hs => by
      have hkl : k ≠ l := fun e => by
        rw [e, hfree] at hs
        cases hs
      have hin := hgone.unitWait k hk hs
      rw [letGo_unitWait] at hin
      exact (List.mem_erase_of_ne hkl).mpr hin
    refine ih hrest ?_
    rw [holdFree_eq (Lane.held_eq_some.mp hh).2]
    exact hgone.withUnitWait (hparked.unitWaitOnce.erase l) hkeep

/-- No lane holds a stream. -/
theorem none_held (h : s.Sound C L { view := holdsAt [] } none) (k : Nat) : (s.lane k).held = none := by
  by_contra hk
  simpa using (h.view k).mp hk

/-- The streams that wait for a lane become UNBOUND, and both queues are empty (R181). -/
theorem holdUnbinds {q : List (Nat × Nat)} (h : { s with laneWait := q }.Sound C L { view := holdsAt [] } none) :
    { q.foldl State.holdUnbind s with laneWait := [] }.Sound C L { view := holdsAt [] } none := by
  induction q generalizing s with
  | nil => exact h
  | cons p rest ih =>
    obtain ⟨t, x⟩ := p
    refine ih ?_
    have hpop := h.popLaneWait (t := t) (x := x) (rest := rest) rfl rfl
    refine hpop.unbind (.inr rfl) (fun hL => ?_) rfl
    obtain ⟨hx, hfree, hout, -⟩ := (hpop.linked hL).late t x rfl
    exact ⟨hx, hfree, hout⟩

end State.Sound

end Sys2Proof.Machine

/-! ## The end of a hold-up flush, the end of a drain and the end of a command -/

namespace Sys2Proof.Machine

/-- The closing part of a hold-up flush: no lane holds a stream, and the device is in HOLDING. -/
structure State.Flushed (C L : Prop) (s : State) : Prop where
  sound : s.Sound C L { view := holdsAt [] } none
  device : s.device = .holding

theorem mem_of_rowOf_ne {α : Type} {d : α} {t : Table α} {n : Nat} (h : rowOf d t n ≠ d) : (n, rowOf d t n) ∈ t := by
  induction t with
  | nil => exact absurd rfl h
  | cons row rest ih =>
    rw [rowOf_cons] at h ⊢
    split at h
    · rename_i e
      rw [if_pos e, ← e]
      exact List.mem_cons_self
    · rename_i e
      rw [if_neg e]
      exact List.mem_cons_of_mem _ (ih h)

namespace State.Sound

variable {C L : Prop} {e : Allow} {s : State} {t : Nat}

/-- Frames are queued in RUNNING alone. -/
theorem queueOf_nil (h : s.Sound C L e none) (hd : s.device ≠ .running) (t : Nat) : L → s.queueOf t = [] := fun hL => by
  unfold State.queueOf
  rw [(h.linked hL).intake hd]
  rfl

end State.Sound

namespace State.Flushed

variable {C L : Prop} {s : State} {t : Nat}

/-- The waiting streams and lanes of a flush give up (R181). -/
theorem emptyQueues (h : s.Flushed C L) :
    { s.laneWait.foldl State.holdUnbind s with laneWait := [], unitWait := [] }.Flushed C L where
  sound := by
    have hunbound := Sound.holdUnbinds (q := s.laneWait) h.sound
    refine hunbound.withUnitWait List.nodup_nil fun l _ hs => ?_
    have hb := hunbound.held_eq_none.mp (hunbound.none_held l)
    exact absurd hs (Lane.not_unitWait_of_not_bound hb)
  device := foldl_closed (P := fun q => q.device = .holding) (fun _ _ => (closed_device .holding).holdUnbind) _ h.device

theorem post (h : s.Flushed C L) {src kind d} : (s.post src kind d).Flushed C L :=
  ⟨h.sound.core (SameCore.refl s).post, (SameCore.refl s).post.device.trans h.device⟩

theorem holdDrain (h : s.Flushed C L) : (s.holdDrain t).Flushed C L where
  sound := by
    unfold State.holdDrain
    split
    · rename_i hf
      refine h.sound.finalClose (fun k => by simp [holdsAt]) ((Tenant.inFrames_iff _).mp hf).1 ?_
      exact h.sound.queueOf_nil (by rw [h.device]; decide) t
    · exact ite_keeps (h.sound.core ((SameCore.refl s).foldl (fun _ _ hp => hp.displaceParked) _)) h.sound
  device := (closed_device .holding).holdDrain h.device

/-- The device leaves HOLDING when no lane holds a stream (R181, R182). -/
theorem leaveHolding (h : s.Flushed C L) {d : DeviceState} (hd : d ≠ .config) (timer : Option Nat) :
    { s with device := d, epochTimer := timer }.Sound C L {} none :=
  { h.sound with
    tabled := ⟨h.sound.tabled.tenants, h.sound.tabled.lanes, h.sound.tabled.units⟩
    view := fun _ => trivial
    started := fun _ => hd
    linked := fun hL => by
      have k := h.sound.linked hL
      have hnone := k.intake (by rw [h.device]; decide)
      exact { k with
        intake := fun _ => hnone
        quota := fun _ n => by
          have hzero : s.boundCount n = 0 := by
            by_contra hb
            obtain ⟨l, x, hl⟩ := exists_held_of_boundCount h.sound.tabled hb
            rw [h.sound.none_held] at hl
            cases hl
          have hn : (s.tenant n).bound = 0 := (h.sound.bound n).trans hzero
          show ((s.tenant n).bound : Int) ≤ _
          rw [hn]
          simp
        late := nofun } }

end State.Flushed

namespace State.Sound

variable {C L : Prop} {e : Allow} {s : State} {t : Nat}

/-- The end of a hold-up flush (R181). -/
theorem finishHold (h : s.Sound C L {} none) (hd : s.device = .holding) : s.finishHold.Sound C L {} none := by
  have hlisted : s.Sound C L { view := holdsAt s.boundLanes } none :=
    h.ease (fun hL => (h.linked hL).quota) fun l => (mem_boundLanes h l).symm
  have hfreed := hlisted.holdFrees ((nodup_rowKeys h.tabled.lanes).filter _)
  have hflushed : (s.boundLanes.foldl State.holdFree s).Flushed C L :=
    ⟨hfreed, foldl_closed (P := fun q => q.device = .holding) (f := State.holdFree)
      (fun _ _ => (closed_device .holding).holdFree) _ hd⟩
  have hdrained : ∀ {q : State} (ls : List Nat), q.Flushed C L → (ls.foldl State.holdDrain q).Flushed C L :=
    fun ls hq => foldl_closed (P := State.Flushed C L) (f := State.holdDrain) (fun _ _ h => h.holdDrain) ls hq
  have hleft : ∀ {q : State}, q.Flushed C L →
      (if q.settings.autoResume && !q.holdLevel then q.returnToRunning else { q with device := .held }).Sound C L {} none :=
    fun {q} hq => ite_keeps ((hq.leaveHolding (d := .running) nofun _).core (SameCore.refl _).continuousScan)
      (hq.leaveHolding (d := .held) nofun q.epochTimer)
  unfold State.finishHold
  exact hleft (hdrained _ hflushed.emptyQueues).post

/-! ### Drains (R173, R22) -/

/-- The streams of a tenant that is not open become UNBOUND. -/
theorem unbindStreams {g : StreamCtx → StreamCtx} (hg : ∀ v, (g v).binding = .unbound) {xs : List Nat}
    (hxs : ∀ x ∈ xs, x < 8) (h : s.Sound C L {} none) (hclosed : (s.tenant t).isOpen = false) :
    (xs.foldl (fun q x => q.modStream t x g) s).Sound C L {} none := by
  induction xs generalizing s with
  | nil => exact h
  | cons x rest ih =>
    have hx := hxs x List.mem_cons_self
    have hno : (s.tenant t).isOpen ≠ true := by simp [hclosed]
    refine ih (fun y hy => hxs y (List.mem_cons_of_mem _ hy)) ?_ hclosed
    refine h.unbind (.inl rfl) (fun hL => ⟨hx, fun l hb => hno ?_, fun hm => hno ?_⟩) (hg _)
    · exact ((h.linked hL).boundLane l t x ((h.linked hL).boundStream t x l hx hb)).2.2 nofun
    · exact ((h.linked hL).laneWait t x hm).2.2 nofun

/-- A REMOVED tenant becomes VACANT (R22). -/
theorem vacate (h : s.Sound C L {} none) (hr : (s.tenant t).state = .removed) : (s.vacate t).Sound C L {} none := by
  have hclosed : (s.tenant t).isOpen = false := by
    unfold Tenant.isOpen Tenant.isServed Tenant.inFrames
    rw [hr]
    rfl
  have hstreams : (allStreams.foldl (State.resetStream t) s).Sound C L {} none := by
    refine h.unbindStreams (g := fun v => { v with binding := .unbound, parkedUnit := none }) (fun _ => rfl) (fun x hx => ?_)
      hclosed
    simpa [allStreams, Config.streamCount] using hx
  have htenant : (allStreams.foldl (State.resetStream t) s).tenant t = s.tenant t :=
    tenant_of_tenants (Closed.resetStreams_tenants t allStreams s) t
  refine hstreams.setTenant (e := {}) (t := t) rfl (.inl rfl) rfl rfl ?_ (fun hL => ?_) fun hL hdev => ?_
  · rw [htenant]
    have := hstreams.floors
    simp only [Tenant.weight, ↓reduceIte]
    omega
  · rw [htenant]
    refine ⟨fun ho => ?_, fun ho => ?_, ?_⟩
    · rw [htenant, hclosed] at ho
      cases ho
    · rw [htenant] at ho
      simp [Tenant.isServed, hr] at ho
    · exact ⟨((h.linked hL).records t).1, nofun⟩
  · exact ⟨(hstreams.linked hL).quota hdev t, fun _ _ => le_rfl⟩

/-- The completion of a drain (R173). -/
theorem completeDrain (h : s.Sound C L {} none) : (s.completeDrain t).Sound C L {} none := by
  unfold State.completeDrain
  split
  case isFalse => exact h
  rename_i hdrained
  simp only [State.drained, Bool.and_eq_true, List.all_eq_true] at hdrained
  obtain ⟨⟨hclosed, hlanes⟩, -⟩ := hdrained
  obtain ⟨hdraining, hphase⟩ := (Tenant.isClosed_iff _).mp hclosed
  have hremoved : (s.setTenant t { s.tenant t with state := .removed, drain := none }).Sound C L {} none := by
    refine h.setTenant (e := {}) rfl (.inl rfl) rfl rfl ?_ (fun hL => ⟨fun ho => ?_, fun _ => .inr fun l x hs => ?_, ?_⟩)
      fun hL hdev => ⟨(h.linked hL).quota hdev t, fun _ _ => le_rfl⟩
    · have := h.floors
      have hweight : ({ s.tenant t with state := .removed, drain := none } : Tenant).weight = (s.tenant t).weight := by
        unfold Tenant.weight
        rw [hdraining]
        rfl
      omega
    · unfold Tenant.isOpen at ho
      rw [Bool.or_eq_true, Tenant.inFrames_iff, hphase] at ho
      simp [Tenant.isServed, hdraining] at ho
    · have hrow : (l, s.lane l) ∈ s.lanes := mem_of_rowOf_ne fun e => by
        rw [show s.lane l = Lane.reset from e] at hs
        cases hs
      have := hlanes _ hrow
      simp [Lane.belongsTo, hs] at this
    · exact (h.linked hL).records t
  have hposted := hremoved.core ((SameCore.refl _).post (src := t) (kind := .drained) (d := 0#32))
  refine ite_keeps (hposted.vacate ?_) hposted
  rw [((SameCore.refl _).post.tenants t).state, setTenant_tenant, if_pos rfl]

theorem completeDrains (h : s.Sound C L {} none) : s.completeDrains.Sound C L {} none :=
  foldl_closed (P := fun q => q.Sound C L {} none) (f := State.completeDrain) (fun _ _ hq => hq.completeDrain) _ h

/-- The end of a command (log 20). -/
theorem conclude (h : s.Sound C L {} none) : s.conclude.Sound C L {} none := by
  unfold State.conclude
  refine Sound.completeDrains ?_
  split
  · rename_i hf
    simp only [Bool.and_eq_true, decide_eq_true_eq] at hf
    exact (h.runWork.finishHold hf.1).runWork
  · exact h.runWork

theorem finishOrder (h : s.Sound C L {} none) (d : Nat) : (s.finishOrder d).Sound C L {} none :=
  Sound.conclude (h.runWork.core (SameCore.refl _).endOrder)

end State.Sound

end Sys2Proof.Machine

/-! ## Policy records and tenant requests -/

namespace Sys2Proof.Machine

theorem excessOf_zero (t n : Nat) : excessOf t 0 n = 0 := by
  unfold excessOf
  split <;> rfl

/-- The floor of the pending record, or 0 without one. -/
def Tenant.pendingFloor (v : Tenant) : Nat := (v.pendingPolicy.map Policy.laneFloor).getD 0

theorem Tenant.reservation_eq (v : Tenant) : v.reservation = max v.active.laneFloor v.pendingFloor := by
  unfold Tenant.reservation Tenant.pendingFloor
  cases v.pendingPolicy <;> simp

theorem weight_le_reservation (v : Tenant) : v.weight ≤ v.reservation := by
  unfold Tenant.weight
  split
  · exact Nat.zero_le _
  · exact le_rfl

theorem weight_of_not_vacant {v : Tenant} (h : v.state ≠ .vacant) : v.weight = v.reservation := if_neg h

/-- A tenant without a pending record reserves no more than with one. -/
theorem weight_le_of_withdrawn {v w : Tenant} (hs : v.state ≠ .vacant) (ha : w.active = v.active)
    (hp : w.pendingPolicy = none) : w.weight ≤ v.weight := by
  refine (weight_le_reservation w).trans ?_
  rw [weight_of_not_vacant hs]
  rw [Tenant.reservation_eq, Tenant.reservation_eq, ha, show w.pendingFloor = 0 by rw [Tenant.pendingFloor, hp]; rfl]
  exact max_le_max le_rfl (Nat.zero_le _)

namespace State.Sound

variable {C L : Prop} {s : State} {t : Nat}

/-! ### A new active record (R29, R30) -/

theorem quotaEvict {n : Nat} (h : s.Sound C L { excess := excessOf t n } none) :
    (State.quotaEvict t n s).Sound C L {} none := by
  induction n generalizing s with
  | zero =>
    refine h.ease (fun hL hd m => ?_) fun _ => trivial
    have := (h.linked hL).quota hd m
    dsimp only at this
    rwa [Nat.cast_zero, excessOf_zero] at this
  | succ n ih =>
    unfold State.quotaEvict
    split
    · refine ih (h.selfEvict (fun _ _ => by omega) (fun _ => trivial) fun m => ?_)
      simp only [excessOf]
      split <;> simp
    · refine h.ease (fun hL hd m => ?_) fun _ => trivial
      have hm := (h.linked hL).quota hd m
      simp only [excessOf] at hm
      split at hm
      · rename_i e
        rw [e]
        omega
      · exact hm

theorem handQuota (h : s.Sound C L { excess := excessOf t (s.tenant t).bound } none) : (s.handQuota t).Sound C L {} none :=
  h.quotaEvict.runLanes

/-- A record becomes the active record of a tenant (R29). -/
theorem applyRecord (h : s.Sound C L {} none) {p : Policy} (hp : L → 1 ≤ p.laneQuota)
    (hfloor : s.floorSum + ((s.tenant t).under p).weight ≤ Config.floorLimit + (s.tenant t).weight) :
    (s.applyRecord t p).Sound C L {} none := by
  have hbound : ((s.modTenant t (Tenant.under p)).tenant t).bound = (s.tenant t).bound := by
    rw [modTenant_tenant, if_pos rfl]
    rfl
  have hunder : (s.modTenant t (Tenant.under p)).Sound C L
      { excess := excessOf t ((s.modTenant t (Tenant.under p)).tenant t).bound } none := by
    refine h.setTenant (e := {}) (v := (s.tenant t).under p) rfl (.inl rfl) rfl rfl hfloor
      (fun hL => ⟨.inl, .inl, hp hL, ((h.linked hL).records t).2⟩) fun hL hd => ⟨?_, fun n hn => ?_⟩
    · rw [hbound]
      simp only [excessOf, if_pos]
      show ((s.tenant t).bound : Int) ≤ _
      omega
    · simp only [excessOf, if_neg hn]
      exact le_rfl
  have hfloored : ∀ {q : State} {old new : Policy}, q.Sound C L {} none → (q.handFloor old new).Sound C L {} none := fun hq =>
    ite_keeps (P := fun q => q.Sound C L {} none) (Sound.runLanes (hq.core (SameCore.refl _).raiseCheck)) hq
  have hpooled : ∀ {q : State} {old new : Policy}, q.Sound C L {} none → (q.handPools t old new).Sound C L {} none := fun hq =>
    ite_keeps (P := fun q => q.Sound C L {} none) (Sound.runLanes (hq.core (SameCore.refl _).raiseService)) hq
  exact (hpooled (hfloored hunder.handQuota)).core (SameCore.refl _).raiseHead

/-- SET_POLICY NOW: the room for the new floor has been checked (R25, R28). -/
theorem setNow (h : s.Sound C L {} none) (tag : BitVec 16) {p : Policy} (hp : 1 ≤ p.laneQuota)
    (hs : (s.tenant t).isServed = true) : (s.setNow tag t p).Sound C L {} none := by
  have hvacant : (s.tenant t).state ≠ .vacant := fun e => by simp [Tenant.isServed, e] at hs
  have hrefused : (s.reply tag .noCapacity).Sound C L {} none := h.core (SameCore.refl s).reply
  have happlied : ∀ n, (s.tenant t).pendingFloor = n → ¬Config.floorLimit < s.floorSumWith t (max p.laneFloor n) →
      ((s.applyRecord t p).runWork.reply tag .ok (.policy p)).conclude.Sound C L {} none := fun n hn hroom => by
    refine Sound.conclude (Sound.core (Sound.runWork (h.applyRecord (fun _ => hp) ?_)) (SameCore.refl _).reply)
    have hle := weight_le_reservation ((s.tenant t).under p)
    rw [Tenant.reservation_eq, show ((s.tenant t).under p).pendingFloor = n from hn,
      show ((s.tenant t).under p).active = p from rfl] at hle
    rw [weight_of_not_vacant hvacant]
    unfold State.floorSumWith at hroom
    omega
  unfold State.setNow
  dsimp only
  split
  · rename_i q hq
    have hn : (s.tenant t).pendingFloor = q.laneFloor := by rw [Tenant.pendingFloor, hq]; rfl
    split
    · exact hrefused
    · exact happlied _ hn ‹_›
  · rename_i hq
    have hn : (s.tenant t).pendingFloor = 0 := by rw [Tenant.pendingFloor, hq]; rfl
    split
    · exact hrefused
    · exact happlied _ hn ‹_›

/-! ### A tenant context under the same record -/

/-- A tenant context is rewritten that keeps its active record and its counts. -/
theorem sameRecord (h : s.Sound C L {} none) {v : Tenant} (ha : v.active = (s.tenant t).active)
    (hb : v.bound = (s.tenant t).bound) (ho : v.owned = (s.tenant t).owned)
    (hfloor : s.floorSum + v.weight ≤ Config.floorLimit + (s.tenant t).weight)
    (hopen : (s.tenant t).isOpen = true → v.isOpen = true)
    (howner : (s.tenant t).isServed = true ∨ (s.tenant t).state = .draining → v.isServed = true ∨ v.state = .draining)
    (hp : L → ∀ p, v.pendingPolicy = some p → 1 ≤ p.laneQuota) : (s.setTenant t v).Sound C L {} none := by
  refine h.setTenant (e := {}) rfl (.inl rfl) hb ho hfloor
    (fun hL => ⟨fun hn => .inl (hopen hn), fun hn => .inl (howner hn), ?_, hp hL⟩) fun hL hd => ⟨?_, fun _ _ => le_rfl⟩
  · rw [ha]
    exact ((h.linked hL).records t).1
  · rw [ha, hb]
    exact (h.linked hL).quota hd t

/-- So is one that reserves no more. -/
theorem sameRecord_lower (h : s.Sound C L {} none) {v : Tenant} (ha : v.active = (s.tenant t).active)
    (hb : v.bound = (s.tenant t).bound) (ho : v.owned = (s.tenant t).owned) (hw : v.weight ≤ (s.tenant t).weight)
    (hopen : (s.tenant t).isOpen = true → v.isOpen = true)
    (howner : (s.tenant t).isServed = true ∨ (s.tenant t).state = .draining → v.isServed = true ∨ v.state = .draining)
    (hp : L → ∀ p, v.pendingPolicy = some p → 1 ≤ p.laneQuota) : (s.setTenant t v).Sound C L {} none := by
  refine h.sameRecord ha hb ho ?_ hopen howner hp
  have := h.floors
  omega

/-- SET_POLICY at the next epoch (R25, R31). -/
theorem setAtEpoch (h : s.Sound C L {} none) (tag : BitVec 16) {p : Policy} (hp : 1 ≤ p.laneQuota)
    (hs : (s.tenant t).isServed = true) : (s.setAtEpoch tag t p).Sound C L {} none := by
  unfold State.setAtEpoch
  split
  · exact h.core (SameCore.refl s).reply
  · rename_i hroom
    have hset : (s.setTenant t { s.tenant t with pendingPolicy := some p }).Sound C L {} none := by
      refine h.sameRecord rfl rfl rfl ?_ id id fun _ q hq => Option.some.inj hq ▸ hp
      refine (Nat.add_le_add_left (weight_le_reservation _) _).trans ?_
      have hvacant : (s.tenant t).state ≠ .vacant := fun e => by simp [Tenant.isServed, e] at hs
      rw [weight_of_not_vacant hvacant]
      unfold State.floorSumWith at hroom
      show s.floorSum + max (s.tenant t).active.laneFloor p.laneFloor ≤ _
      omega
    exact Sound.core hset (SameCore.refl _).reply

/-- The pending record of a served tenant is withdrawn (R32, R33). -/
theorem withdrawPending (h : s.Sound C L {} none) (hs : (s.tenant t).isServed = true) :
    (s.modTenant t (fun v => { v with pendingPolicy := none })).Sound C L {} none := by
  have hvacant : (s.tenant t).state ≠ .vacant := fun e => by simp [Tenant.isServed, e] at hs
  exact h.sameRecord_lower rfl rfl rfl (weight_le_of_withdrawn hvacant rfl rfl) id id fun _ _ => nofun

/-- The pending record of a served tenant becomes its active record (R32). -/
theorem applyPending (h : s.Sound C L {} none) (t : Nat) : (s.applyPending t).Sound C L {} none := by
  unfold State.applyPending
  split
  case h_2 => exact h
  rename_i p hpending
  split
  case isFalse => exact h
  rename_i hs
  have hvacant : (s.tenant t).state ≠ .vacant := fun e => by simp [Tenant.isServed, e] at hs
  have hnone := h.withdrawPending hs
  have htenant : (s.modTenant t (fun v => { v with pendingPolicy := none })).tenant t =
      { s.tenant t with pendingPolicy := none } := (modTenant_tenant s t _ t).trans (if_pos rfl)
  refine hnone.applyRecord (fun hL => ((h.linked hL).records t).2 p hpending) ?_
  have hsum := floorSum_change h.tabled hnone.tabled t fun k hk => by rw [modTenant_tenant, if_neg hk]
  have hfloors := h.floors
  have hle := weight_le_reservation (Tenant.under p { s.tenant t with pendingPolicy := none })
  have hold := weight_of_not_vacant hvacant
  rw [Tenant.reservation_eq, show (s.tenant t).pendingFloor = p.laneFloor by rw [Tenant.pendingFloor, hpending]; rfl] at hold
  rw [Tenant.reservation_eq] at hle
  rw [htenant] at hsum ⊢
  have hmax := le_max_right (s.tenant t).active.laneFloor p.laneFloor
  have hnew : max (Tenant.under p { s.tenant t with pendingPolicy := none }).active.laneFloor
      (Tenant.under p { s.tenant t with pendingPolicy := none }).pendingFloor = p.laneFloor := Nat.max_eq_left (Nat.zero_le _)
  omega

theorem suspend (h : s.Sound C L {} none) (hs : (s.tenant t).state = .active) :
    (s.modTenant t (fun v => { v with state := .suspended })).Sound C L {} none := by
  refine h.sameRecord_lower (v := { s.tenant t with state := .suspended }) rfl rfl rfl ?_ (fun _ => rfl) (fun _ => .inl rfl)
    fun hL => ((h.linked hL).records t).2
  rw [weight_of_not_vacant (v := s.tenant t) (by rw [hs]; decide)]
  exact weight_le_reservation _

theorem serveResumed (h : s.Sound C L {} none) (hs : (s.tenant t).state = .suspended) :
    (s.modTenant t (fun v => { v with state := .active })).Sound C L {} none := by
  refine h.sameRecord_lower (v := { s.tenant t with state := .active }) rfl rfl rfl ?_ (fun _ => rfl) (fun _ => .inl rfl)
    fun hL => ((h.linked hL).records t).2
  rw [weight_of_not_vacant (v := s.tenant t) (by rw [hs]; decide)]
  exact weight_le_reservation _

theorem enterDraining (h : s.Sound C L {} none) (hs : (s.tenant t).isServed = true) (mode : DrainMode) :
    (s.enterDraining t mode).Sound C L {} none := by
  have hvacant : (s.tenant t).state ≠ .vacant := fun e => by simp [Tenant.isServed, e] at hs
  exact h.sameRecord_lower (v := { s.tenant t with
    state := .draining, pendingPolicy := none, drain := some ⟨mode, .frames, .absent⟩ }) rfl rfl rfl
    (weight_le_of_withdrawn hvacant rfl rfl) (fun _ => rfl) (fun _ => .inr rfl) fun _ _ => nofun

end State.Sound

end Sys2Proof.Machine

/-! ## Every command -/

namespace Sys2Proof.Machine

/-- A nomination is taken only of a SEALED unit (R150). -/
theorem walkNominations_sealed {s : State} {scope : ScanScope} {l : List Nomination} {u : Nat}
    (h : (walkNominations s scope l).2 = some u) : (s.unit u).state = .sealed := by
  induction l with
  | nil => cases h
  | cons n rest ih =>
    unfold walkNominations at h
    dsimp only at h
    split at h
    · exact ih h
    · rename_i hn
      simp only [Bool.or_eq_true, decide_eq_true_eq, not_or, not_not] at hn
      split at h
      · cases h
        exact hn.2
      · exact ih h

namespace State.Sound

variable {C L : Prop} {s : State} {t : Nat}

/-! ### The link -/

/-- A frame that is taken goes on to its rule; it may be discarded or not accepted instead. -/
theorem receive (h : s.Sound C L {} none) {fits : Bool} {act : State → State}
    (ha : fits = true → (act s.noteRx).Sound C L {} none) : (s.receive fits act).Sound C L {} none := by
  unfold State.receive
  split
  · exact h
  · dsimp only
    split
    · exact h.core (SameCore.records (s := s) (t := { s.noteRx with resyncArmed := false })).discardFrame
    · split
      · exact ha ‹_›
      · exact h.core (SameCore.records (s := s) (t := s.noteRx)).discardFrame

theorem control (h : s.Sound C L {} none) (tag : BitVec 16) {fits : Bool} {act : State → State}
    (ha : fits = true → (act s.noteRx).Sound C L {} none) : (s.control tag fits act).Sound C L {} none :=
  h.receive fun hf => ite_keeps (h.core (SameCore.records (s := s) (t := s.noteRx)).reply) (ha hf)

theorem clearCounters (h : s.Sound C L {} none) (target : QueryTarget) : (s.clearCounters target).Sound C L {} none := by
  unfold State.clearCounters
  split
  · exact h.core .records
  · exact h.core (SameCore.refl s).modTenantCounters
  · exact h.core (SameCore.refl s).modStream
  · exact h

theorem takeQuery (h : s.Sound C L {} none) (tag : BitVec 16) (target : QueryTarget) (clear : BitVec 8) :
    (s.takeQuery tag target clear).Sound C L {} none := by
  unfold State.takeQuery
  split
  · exact Sound.core (ite_keeps (h.clearCounters target) h) (SameCore.refl _).reply
  · exact h.core (SameCore.refl s).reply

/-- New settings, where no order is in flight (R14). -/
theorem takeConfigure (h : s.Sound C L {} none) (hd : L → s.device = .config → s.dies = []) (tag : BitVec 16)
    (raw : RawSettings) : (s.takeConfigure tag raw).Sound C L {} none := by
  have hreply : ∀ {status}, (s.reply tag status).Sound C L {} none := h.core (SameCore.refl s).reply
  unfold State.takeConfigure
  split
  case isFalse => exact hreply
  rename_i hconfig
  split
  · rename_i v _
    have hset : { s with settings := v }.Sound C L {} none := { h with
      tabled := ⟨h.tabled.tenants, h.tabled.lanes, h.tabled.units⟩
      linked := fun hL => { h.linked hL with
        inFlight := fun g => by
          have hzero : s.inFlight g = 0 := by
            unfold State.inFlight State.die
            rw [hd hL hconfig]
            exact List.countP_eq_zero.mpr fun _ _ => Bool.false_ne_true
          exact (show s.inFlight g ≤ v.groupLimit by rw [hzero]; exact Nat.zero_le _) } }
    exact Sound.core hset (SameCore.refl _).reply
  · exact hreply

theorem takeGrant (h : s.Sound C L {} none) (tag grant : BitVec 16) : (s.takeGrant tag grant).Sound C L {} none :=
  ite_keeps (h.core (SameCore.refl s).reply) (h.core .records)

theorem takePolicyHold (h : s.Sound C L {} none) (tag : BitVec 16) (code : BitVec 8) :
    (s.takePolicyHold tag code).Sound C L {} none := by
  unfold State.takePolicyHold
  split
  · exact h.core .records
  · exact h.core .records
  · exact h.core (SameCore.refl s).reply

theorem sendReply (h : s.Sound C L {} none) {t : State} (e : execSendReply s = .next t) : t.Sound C L {} none := by
  cases e
  split
  · exact h
  · exact ite_keeps h (h.core .records)

theorem sendPlacementReport (h : s.Sound C L {} none) {t : State} (e : execSendPlacementReport s = .next t) :
    t.Sound C L {} none := by
  cases e
  split
  · exact ite_keeps (h.core (SameCore.grantRoom .records)) h
  · exact h

theorem sendNotice (h : s.Sound C L {} none) {t : State} (e : execSendNotice s = .next t) : t.Sound C L {} none := by
  cases e
  split
  · exact ite_keeps (h.core .records) h
  · exact h

/-! ### Scans and units -/

theorem takeStartScan (h : s.Sound C L {} none) (tag : BitVec 16) (scope : BitVec 8) (tenant : BitVec 16) :
    (s.takeStartScan tag scope tenant).Sound C L {} none := by
  have hreply : ∀ {status}, (s.reply tag status).Sound C L {} none := h.core (SameCore.refl s).reply
  unfold State.takeStartScan
  split
  · exact hreply
  · split
    · exact hreply
    · exact ite_keeps hreply (h.core .records)

theorem takeNomination (h : s.Sound C L {} none) (tag : BitVec 16) (scope : BitVec 8) (tenant : BitVec 16) :
    (s.takeNomination tag scope tenant).Sound C L {} none := by
  have hreply : ∀ {status}, (s.reply tag status).Sound C L {} none := h.core (SameCore.refl s).reply
  unfold State.takeNomination
  split
  · exact hreply
  · split
    · exact hreply
    · rename_i sc _
      have hlist : { s with nominations := (walkNominations s sc s.nominations).1 }.Sound C L {} none := h.core .records
      unfold State.take
      dsimp only
      split
      · rename_i u hw
        have hu : (s.unit u).state = .sealed := walkNominations_sealed hw
        exact Sound.core (hlist.reclaim hu) (SameCore.refl _).reply.sample
      · exact Sound.core hlist (SameCore.refl _).reply

theorem takeReclaim (h : s.Sound C L {} none) (tag unit : BitVec 16) : (s.takeReclaim tag unit).Sound C L {} none := by
  have hreply : ∀ {status}, (s.reply tag status).Sound C L {} none := h.core (SameCore.refl s).reply
  unfold State.takeReclaim
  dsimp only
  split_ifs with _ _ hs
  · exact hreply
  · exact hreply
  · exact Sound.core (h.reclaim hs) (SameCore.refl _).reply
  · exact hreply

theorem declareOne (h : s.Sound C L {} none) (e : DeclareEntry) : (Machine.declareOne e s).1.Sound C L {} none := by
  unfold Machine.declareOne
  dsimp only
  split
  · exact h
  split
  · exact h
  rename_i hu
  rw [not_not] at hu
  split
  · split
    · exact h.declared hu rfl rfl
    · exact h
  have hset : ∀ {r : UnitRec}, r.state = .vacant ∨ r.state = .retired → (s.setUnit e.unit.toNat r).Sound C L {} none := fun hr =>
    h.setUncounted (by rw [hu]; rfl) (by rw [hu]; decide) (by rcases hr with e | e <;> rw [e] <;> rfl)
      (by rcases hr with e | e <;> rw [e] <;> decide)
  split
  · exact hset (.inl rfl)
  · exact hset (.inr rfl)

theorem takeDeclare (h : s.Sound C L {} none) (tag : BitVec 16) (count : BitVec 8) (entries : List DeclareEntry) :
    (s.takeDeclare tag count entries).Sound C L {} none := by
  have hall := handleEntries_keeps (P := fun q => q.Sound C L {} none) (fun e _ hq => hq.declareOne e) entries h
  exact ite_keeps (h.core (SameCore.refl s).reply)
    (ite_keeps (hall.core (SameCore.refl _).reply) (h.core (SameCore.refl s).reply))

theorem supplyOne (h : s.Sound C L {} none) (unit : BitVec 16) : (Machine.supplyOne unit s).1.Sound C L {} none := by
  unfold Machine.supplyOne
  dsimp only
  split_ifs with _ hu
  · exact h
  · simp only [Bool.or_eq_true, decide_eq_true_eq] at hu
    exact h.supply hu rfl
  · exact h

theorem takeSupply (h : s.Sound C L {} none) (tag : BitVec 16) (count : BitVec 8) (entries : List (BitVec 16)) :
    (s.takeSupply tag count entries).Sound C L {} none := by
  have hall := handleEntries_keeps (P := fun q => q.Sound C L {} none) (fun u _ hq => hq.supplyOne u) entries h
  have hserved := Sound.runWork (hall.core (SameCore.refl _).raiseService)
  exact ite_keeps (h.core (SameCore.refl s).reply) (ite_keeps (h.core (SameCore.refl s).reply)
    (Sound.conclude (Sound.core (ite_keeps hserved hall) (SameCore.refl _).reply)))

/-- The former owner of a released unit (R135). -/
theorem disown (h : (s.modTenant t (fun v => { v with owned := v.owned - 1 })).Sound C L {} none) :
    (s.disown t).Sound C L {} none := by
  unfold State.disown
  dsimp only
  split
  · rename_i hs
    simp only [Bool.and_eq_true, decide_eq_true_eq] at hs
    exact h.vacate hs.1
  · exact h

theorem release (h : s.Sound C L {} none) {u : Nat} (hu : (s.unit u).state = .reclaiming) : (s.release u).Sound C L {} none := by
  have hr : ((if (s.unit u).failed then .retired else .vacant : UnitState)) = .retired ∨
      (if (s.unit u).failed then .retired else .vacant : UnitState) = .vacant := by
    split
    · exact .inl rfl
    · exact .inr rfl
  unfold State.release
  dsimp only
  split
  · exact Sound.disown (h.released hu ‹_› hr)
  · exact h.releasedOwnerless hu ‹_› hr

theorem releaseOne (h : s.Sound C L {} none) (force : Bool) (unit : BitVec 16) :
    (Machine.releaseOne force unit s).1.Sound C L {} none := by
  unfold Machine.releaseOne
  dsimp only
  split
  · exact h
  · split
    · exact Sound.core (h.withdrawn (r := { s.unit unit.toNat with state := .vacant }) ‹_› rfl) (SameCore.refl _).lowWaterCheck
    · rename_i hu
      split_ifs
      · exact h.release hu
      · exact (h.release hu).core .records
      · exact h
    · exact h

theorem takeRelease (h : s.Sound C L {} none) (tag : BitVec 16) (force count : BitVec 8) (entries : List (BitVec 16)) :
    (s.takeRelease tag force count entries).Sound C L {} none := by
  have hall := handleEntries_keeps (P := fun q => q.Sound C L {} none) (fun u _ hq => hq.releaseOne (flagOf force) u) entries h
  exact ite_keeps (h.core (SameCore.refl s).reply)
    (ite_keeps (h.core (SameCore.refl s).reply) (hall.core (SameCore.refl _).reply))

theorem invalidateOne (h : s.Sound C L {} none) (e : InvalidateEntry) : (Machine.invalidateOne e s).1.Sound C L {} none := by
  unfold Machine.invalidateOne
  dsimp only
  split
  · exact h
  · split
    · exact h.core (ite_keeps (P := SameCore s) (SameCore.refl s).modUnit.modCounters (SameCore.refl s).modUnit)
    · exact h.core .records

theorem takeInvalidate (h : s.Sound C L {} none) (tag : BitVec 16) (count : BitVec 8) (entries : List InvalidateEntry) :
    (s.takeInvalidate tag count entries).Sound C L {} none := by
  have hall := handleEntries_keeps (P := fun q => q.Sound C L {} none) (fun e _ hq => hq.invalidateOne e) entries h
  exact ite_keeps (h.core (SameCore.refl s).reply) (hall.core (SameCore.refl _).reply)

/-! ### Tenants -/

theorem tenantRequest (h : s.Sound C L {} none) (tag tenant : BitVec 16) {act : State → State}
    (ha : (act s).Sound C L {} none) : (s.tenantRequest tag tenant act).Sound C L {} none := by
  unfold State.tenantRequest
  split
  · exact h.core (SameCore.refl s).reply
  · exact ha

/-- A VACANT tenant is admitted: the room for its floor has been checked (R25, R27). -/
theorem enrol (h : s.Sound C L {} none) {p : Policy} (hp : 1 ≤ p.laneQuota) (hv : (s.tenant t).state = .vacant)
    (hroom : s.floorSum + p.laneFloor ≤ Config.floorLimit) : (s.enrol t p).Sound C L {} none := by
  have hclosed : (s.tenant t).isOpen = false := by
    unfold Tenant.isOpen Tenant.isServed Tenant.inFrames
    rw [hv]
    rfl
  have hcleared : (s.clearStreams t).Sound C L {} none :=
    h.unbindStreams (g := fun _ => StreamCtx.reset) (fun _ => rfl) (fun x hx => by simpa [Config.streamCount] using hx) hclosed
  obtain ⟨m, hm⟩ := clearStreams_eq s t
  have htenant : (s.clearStreams t).tenant t = s.tenant t := tenant_of_tenants (by rw [hm]) t
  have hsum : (s.clearStreams t).floorSum = s.floorSum := by rw [hm]; rfl
  refine hcleared.setTenant (e := {}) (t := t) rfl (.inl rfl) rfl rfl ?_ (fun hL => ?_) fun hL hd => ⟨?_, fun _ _ => le_rfl⟩
  · refine (Nat.add_le_add_left (weight_le_reservation _) _).trans ?_
    rw [hsum, htenant, Tenant.weight, if_pos hv]
    exact hroom
  · refine ⟨fun ho => ?_, fun ho => ?_, hp, nofun⟩
    · rw [htenant, hclosed] at ho
      cases ho
    · rw [htenant] at ho
      simp [Tenant.isServed, hv] at ho
  · have hzero : (s.tenant t).bound = 0 := by
      rw [h.bound]
      by_contra hb
      obtain ⟨l, x, hl⟩ := exists_held_of_boundCount h.tabled hb
      have := ((h.linked hL).boundLane l t x hl).2.2 nofun
      rw [hclosed] at this
      cases this
    rw [htenant]
    show ((s.tenant t).bound : Int) ≤ _
    rw [hzero]
    simp

theorem takeAdmit (h : s.Sound C L {} none) (tag tenant : BitVec 16) {raw : RawPolicy} (hf : raw.fits = true) :
    (s.takeAdmit tag tenant raw).Sound C L {} none := by
  have hreply : ∀ {status body}, (s.reply tag status body).Sound C L {} none := h.core (SameCore.refl s).reply
  refine h.tenantRequest tag tenant ?_
  dsimp only
  split
  · rename_i hv
    split
    · exact hreply
    · rename_i p hp
      split
      · exact hreply
      · have hin := policyOf_inRange hf hp
        exact Sound.core (h.enrol hin.laneQuota.1 hv (by omega)) (SameCore.refl _).reply
  · exact hreply
  · exact hreply

theorem takeSetPolicy (h : s.Sound C L {} none) (tag tenant : BitVec 16) (whenCode : BitVec 8) {raw : RawPolicy}
    (hf : raw.fits = true) : (s.takeSetPolicy tag tenant whenCode raw).Sound C L {} none := by
  have hreply : ∀ {status body}, (s.reply tag status body).Sound C L {} none := h.core (SameCore.refl s).reply
  refine h.tenantRequest tag tenant ?_
  dsimp only
  split
  · rename_i hs
    split
    · exact h.setNow tag (policyOf_inRange hf ‹_›).laneQuota.1 hs
    · exact h.setAtEpoch tag (policyOf_inRange hf ‹_›).laneQuota.1 hs
    · exact hreply
  · exact hreply

theorem takeCancel (h : s.Sound C L {} none) (tag tenant : BitVec 16) : (s.takeCancel tag tenant).Sound C L {} none := by
  have hreply : ∀ {status body}, (s.reply tag status body).Sound C L {} none := h.core (SameCore.refl s).reply
  refine h.tenantRequest tag tenant ?_
  dsimp only
  split
  · exact ite_keeps (Sound.core (h.withdrawPending ‹_›) (SameCore.refl _).reply) hreply
  · exact hreply

theorem takeSuspend (h : s.Sound C L {} none) (tag tenant : BitVec 16) : (s.takeSuspend tag tenant).Sound C L {} none := by
  refine h.tenantRequest tag tenant ?_
  dsimp only
  split
  · have hwork := Sound.runWork ((h.suspend ‹_›).core (SameCore.refl _).raiseCheck)
    exact Sound.conclude (hwork.core (SameCore.refl _).reply)
  · exact h.core (SameCore.refl s).reply

theorem takeResume (h : s.Sound C L {} none) (tag tenant : BitVec 16) : (s.takeResume tag tenant).Sound C L {} none := by
  refine h.tenantRequest tag tenant ?_
  dsimp only
  split
  · exact Sound.conclude (Sound.core (Sound.runWork ((h.serveResumed ‹_›).core (SameCore.refl _).serveAgain))
      (SameCore.refl _).reply)
  · exact h.core (SameCore.refl s).reply

theorem remove (h : s.Sound C L {} none) (tag : BitVec 16) (mode : DrainMode) (hs : (s.tenant t).isServed = true) :
    (s.remove tag t mode).Sound C L {} none := by
  have hdrain := h.enterDraining hs mode
  have hqueue : ∀ {q : State}, SameCore q (q.drainQueue t mode).1 := fun {q} => by
    cases mode
    · exact (SameCore.refl q).serveAgain
    · exact (SameCore.refl q).abortQueue
  have hdeadline : ∀ {q : State}, SameCore q (q.startDeadline t) := fun {q} => by
    refine ite_keeps (P := SameCore q) ((SameCore.refl q).modTenant fun v => ⟨rfl, rfl, rfl, rfl, rfl, ?_⟩) (SameCore.refl q)
    cases v.drain <;> rfl
  exact Sound.conclude (Sound.core (Sound.runWork ((hdrain.core hqueue).core hdeadline)) (SameCore.refl _).reply)

theorem takeRemove (h : s.Sound C L {} none) (tag tenant : BitVec 16) (mode : BitVec 8) :
    (s.takeRemove tag tenant mode).Sound C L {} none := by
  have hreply : ∀ {status body}, (s.reply tag status body).Sound C L {} none := h.core (SameCore.refl s).reply
  unfold State.takeRemove
  split
  · exact hreply
  · split
    · exact hreply
    · split
      · exact hreply
      · split
        · exact h.remove tag _ ‹_›
        · exact hreply

/-- The visit of one lane by a flush (R83). -/
theorem flushLane {r : State × Nat} (h : r.1.Sound C L {} none) (slot l : Nat) :
    (State.flushLane slot r l).1.Sound C L {} none := by
  have href : ∀ {q : State × Nat} {p}, q.1.Sound C L {} none → (State.refHalf slot q p).1.Sound C L {} none := fun {q p} hq => by
    unfold State.refHalf
    split
    · dsimp only
      exact hq.core (SameCore.refl q.1).modHalf
    · exact hq
  exact href (href (h.padFilling _))

theorem flush (h : s.Sound C L {} none) (tag : BitVec 16) (t : Nat) : (s.flush tag t).Sound C L {} none := by
  have hvisits : ∀ (ls : List Nat) (r : State × Nat), r.1.Sound C L {} none →
      (ls.foldl (State.flushLane s.freeSlot) r).1.Sound C L {} none := fun ls => by
    induction ls with
    | nil => exact fun r hr => hr
    | cons k rest ih => exact fun r hr => ih _ (Sound.flushLane hr _ k)
  have hall := hvisits (s.lanesOf t) (s, 0) h
  exact ite_keeps (Sound.conclude (hall.runWork.core (SameCore.refl _).reply)) (Sound.conclude (hall.core .records))

theorem takeFlush (h : s.Sound C L {} none) (tag tenant : BitVec 16) : (s.takeFlush tag tenant).Sound C L {} none := by
  have hreply : ∀ {status body}, (s.reply tag status body).Sound C L {} none := h.core (SameCore.refl s).reply
  exact ite_keeps hreply (ite_keeps hreply (ite_keeps hreply (ite_keeps hreply (h.flush tag _))))

/-! ### Epochs -/

theorem boundary (h : s.Sound C L {} none) (forced quiet : Bool) : (s.boundary forced quiet).Sound C L {} none := by
  have hnext : { s with epoch := s.epoch + 1#32, epochTimer := some s.settings.epochLength }.Sound C L {} none := h.core .records
  have happly : (State.applyAll { s with epoch := s.epoch + 1#32, epochTimer := some s.settings.epochLength }).Sound C L {} none :=
    ite_keeps hnext (foldl_closed (P := fun q => q.Sound C L {} none) (fun _ n hq => hq.applyPending n) _ hnext)
  exact happly.core ((SameCore.refl _).foldl (fun _ _ hp => hp.boundaryTenant) _).ageUnits.repetition.epochNotice

theorem takeForceEpoch (h : s.Sound C L {} none) (tag : BitVec 16) (quiet : BitVec 8) :
    (s.takeForceEpoch tag quiet).Sound C L {} none :=
  ite_keeps (Sound.conclude ((h.boundary true _).runWork.core (SameCore.refl _).reply)) (h.core (SameCore.refl s).reply)

/-! ### Starting and holding -/

/-- A device that is not HOLDING starts to run (R13, R182). -/
theorem run {S : Prop} (h : s.Sound S L {} none) (hd : s.device ≠ .holding) {epoch timer count} :
    { s with device := .running, epoch := epoch, epochTimer := timer, scanCount := count }.Sound C L {} none :=
  { h with
    tabled := ⟨h.tabled.tenants, h.tabled.lanes, h.tabled.units⟩
    started := fun _ => nofun
    linked := fun hL => { h.linked hL with
      intake := fun hn => absurd rfl hn
      quota := fun _ => (h.linked hL).quota hd } }

/-- START in CONFIG: the part has been started (R13). -/
theorem started_of_start {S : Prop} (h : s.Sound S L {} none) (hd : s.device = .config) (tag : BitVec 16) :
    (s.takeStart tag).Sound C L {} none := by
  have hrun : (s.startRunning.reply tag .ok).Sound C L {} none :=
    Sound.core (h.run (by rw [hd]; decide)) (SameCore.refl _).continuousScan.reply
  unfold State.takeStart
  rw [if_pos hd]
  exact Sound.conclude (ite_keeps hrun.enterHolding hrun)

theorem takeStart (h : s.Sound C L {} none) (tag : BitVec 16) : (s.takeStart tag).Sound C L {} none := by
  by_cases hd : s.device = .config
  · exact h.started_of_start hd tag
  unfold State.takeStart
  rw [if_neg hd]
  exact h.core (SameCore.refl s).reply

theorem returnToRunning (h : s.Sound C L {} none) (hd : s.device = .held) : s.returnToRunning.Sound C L {} none :=
  Sound.core (h.run (by rw [hd]; decide)) (SameCore.refl _).continuousScan

theorem takeResumeFromHold (h : s.Sound C L {} none) (tag : BitVec 16) : (s.takeResumeFromHold tag).Sound C L {} none := by
  unfold State.takeResumeFromHold
  split
  · exact ite_keeps (h.core (SameCore.refl s).reply) (Sound.core (h.returnToRunning ‹_›) (SameCore.refl _).reply)
  · exact h.core (SameCore.refl s).reply

theorem holdAsserted (h : s.Sound C L {} none) {t : State} (e : execHoldAsserted s = .next t) : t.Sound C L {} none := by
  have hlevel : { s with holdLevel := true }.Sound C L {} none := h.core .records
  cases e
  exact ite_keeps (Sound.conclude hlevel.enterHolding) hlevel

theorem holdDeasserted (h : s.Sound C L {} none) {t : State} (e : execHoldDeasserted s = .next t) : t.Sound C L {} none := by
  have hlevel : { s with holdLevel := false }.Sound C L {} none := h.core .records
  cases e
  dsimp only
  split
  · rename_i hd
    simp only [Bool.and_eq_true, decide_eq_true_eq] at hd
    exact hlevel.returnToRunning hd.1
  · exact hlevel

end State.Sound

end Sys2Proof.Machine

/-! ## Writes, offers and media reports -/

namespace Sys2Proof.Machine

/-- A frame is classified to one of the eight streams (R39). -/
theorem classify_lt {p : Policy} (hp : p.activeStreams ≤ 7) (hint : BitVec 8) (relocation : Bool) :
    (classify p hint relocation).1 < 8 := by
  unfold classify
  split
  · decide
  · dsimp only
    split
    · dsimp only
      omega
    · decide

namespace State.Sound

variable {C L : Prop} {s : State} {t : Nat}

/-- A frame is queued (R42). -/
theorem appendFrame (h : s.Sound C L {} none) {f : Frame} (hd : s.device = .running)
    (hf : L → f.stream < 8 ∧ (s.tenant f.tenant).isOpen = true) : (s.appendFrame f).Sound C L {} none := by
  have hqueued : { s with intake := s.intake ++ [f] }.Sound C L {} none := { h with
    tabled := ⟨h.tabled.tenants, h.tabled.lanes, h.tabled.units⟩
    linked := fun hL => { h.linked hL with
      intake := fun hn => absurd hd hn
      frames := fun g hg => by
        rcases List.mem_append.mp hg with hg | hg
        · exact (h.linked hL).frames g hg
        · rw [List.mem_singleton.mp hg]
          exact hf hL } }
  exact ite_keeps (hqueued.core (SameCore.refl _).raiseHead) hqueued

theorem acceptWrite (h : s.Sound C L {} none) (hr : L → s.InRange) {tag tenant : BitVec 16} (hd : s.device = .running)
    (hs : (s.tenant tenant.toNat).isServed = true) (hint flags : BitVec 8) (writeTag : BitVec 32) (sectors : List Sector) :
    (s.acceptWrite tag tenant hint flags writeTag sectors).Sound C L {} none := by
  unfold State.acceptWrite
  dsimp only
  have hcore : ∀ c : Prop, [Decidable c] → SameCore s (if c then s.modTenantCounters tenant.toNat
      (fun k => { k with mapClamps := bump k.mapClamps 1 }) else s) :=
    fun _ _ => ite_keeps (SameCore.refl s).modTenantCounters (SameCore.refl s)
  refine Sound.appendFrame (h.core (hcore _)) ((hcore _).device.trans hd) fun hL => ⟨?_, ?_⟩
  · exact classify_lt ((hr hL).tenants tenant.toNat).active.activeStreams.2 _ _
  · rw [((hcore _).tenants _).isOpen, Tenant.isOpen, hs]
    rfl

theorem takeWrite (h : s.Sound C L {} none) (hr : L → s.InRange) (tag tenant : BitVec 16) (hint flags : BitVec 8)
    (writeTag : BitVec 32) (count : BitVec 8) (sectors : List Sector) :
    (s.takeWrite tag tenant hint flags writeTag count sectors).Sound C L {} none := by
  unfold State.takeWrite
  split
  · exact h.core (SameCore.refl s).reply
  · split
    · exact h.core (SameCore.refl s).reply
    · rename_i hnone
      unfold State.arrivalRefusal at hnone
      split at hnone
      · cases hnone
      · split at hnone
        · cases hnone
        · cases hnone
        · cases hnone
        · rename_i hd
          split at hnone
          · exact Sound.conclude (h.acceptWrite hr hd ‹_› _ _ _ _)
          · cases hnone

/-! ### Offers -/

/-- A bound lane moves to the tail of the recency list (R61). -/
theorem touchLane (h : s.Sound C L {} none) {l : Nat} (hb : (s.lane l).isBound = true) : (s.touchLane l).Sound C L {} none :=
  { h with
    tabled := ⟨h.tabled.tenants, h.tabled.lanes, h.tabled.units⟩
    recencyOnce := by
      rw [show (s.touchLane l).recency = s.recency.erase l ++ [l] from rfl, List.nodup_append']
      exact ⟨h.recencyOnce.erase l, List.nodup_singleton l, by simp [h.recencyOnce.mem_erase_iff]⟩
    recency := fun k => by
      rw [show (s.touchLane l).recency = s.recency.erase l ++ [l] from rfl, List.mem_append, h.recencyOnce.mem_erase_iff,
        show (s.touchLane l).lane k = s.lane k from rfl, List.mem_singleton, ← h.recency k]
      by_cases hk : k = l
      · simp [hk, (h.recency l).mpr hb]
      · simp [hk]
    linked := fun hL => { h.linked hL with } }

/-- The next sector of a frame is staged (R68). -/
theorem stage (h : s.Sound C L {} none) {f : Frame} {l : Nat} {k : HalfId} (hb : (s.lane l).isBound = true) :
    (s.stage t f l k).Sound C L {} none := by
  have hput : ∀ g : Half → Half,
      (((s.modHalf l k g).touchLane l).modHead t (fun e => { e with staged := f.staged + 1 })).Sound C L {} none := fun g => by
    have hhalf : SameCore s (s.modHalf l k g) := (SameCore.refl s).modHalf
    exact Sound.core ((h.core hhalf).touchLane ((Lane.isBound_congr (hhalf.lanes l)).trans hb)) (SameCore.refl _).modHead
  unfold State.stage
  dsimp only
  refine ite_keeps (Sound.core ?_ (SameCore.refl _).acceptHead) ?_ <;>
    exact ite_keeps (P := fun q => q.Sound C L {} none) (Sound.halfFull (hput _) k false) (hput _)

theorem offer (h : s.Sound C L {} none) (t : Nat) : (s.offer t).Sound C L {} none := by
  unfold State.offer
  split
  · exact h
  split
  case isFalse => exact h
  split
  · unfold State.offerTo
    split
    · exact h.core (SameCore.refl s).noSpaceReport
    · split
      · rename_i hroom
        refine h.stage ?_
        by_contra hb
        unfold Lane.room at hroom
        simp [Bool.eq_false_iff.mpr hb] at hroom
      · exact h.core (SameCore.refl s).headAt
  · exact h.core (SameCore.refl s).serveAgain

/-! ### Media reports -/

theorem programDone (h : s.Sound C L {} none) (d u l : Nat) (k : HalfId) (mark : Bool) :
    (s.programDone d u l k mark).Sound C L {} none := by
  have hrun := (h.completeHalf (l := l) k).runWork.core ((SameCore.refl _).modLane (l := l) (f := fun v => { v with failRun := 0 }))
  exact Sound.finishOrder (ite_keeps (hrun.sealUnit u) hrun) d

theorem programLost (h : s.Sound C L {} none) (d u l : Nat) (k : HalfId) : (s.programLost d u l k).Sound C L {} none := by
  have htell : SameCore (s.failUnit u) ((s.failUnit u).tellLaneTenant l u) := by
    unfold State.tellLaneTenant
    split
    · exact (SameCore.refl _).post
    · exact SameCore.refl _
  exact Sound.finishOrder (Sound.reissue ((h.failUnit u).core htell.modLane) k u) d

/-- The lane that waits for a seal is CLOSING (R118). -/
theorem freeSealing (h : s.Sound C L {} none) (u : Nat) : (s.freeSealing u).Sound C L {} none := by
  unfold State.freeSealing
  split
  · rename_i l hl
    unfold State.laneSealing at hl
    have hs := List.find?_some hl
    simp only [Bool.and_eq_true, decide_eq_true_eq] at hs
    exact h.freeLane (Lane.isBound_of_state hs.1 nofun nofun)
  · exact h

theorem sealLost (h : s.Sound C L {} none) (d u : Nat) : (s.sealLost d u).Sound C L {} none := by
  unfold State.sealLost
  dsimp only
  split
  · exact Sound.finishOrder (Sound.freeSealing ((h.failUnit u).core (SameCore.refl _).post) u) d
  · exact Sound.finishOrder ((h.failUnit u).freeSealing u) d

end State.Sound

/-! ### Coherent, Linked and Sound -/

theorem State.Coherent.boundCount {s : State} (h : s.Coherent) (t : Nat) : (s.tenant t).bound = s.boundCount t :=
  (h.bound t).trans (countP_eq_tableSum (fun v : Lane => v.isBound && v.belongsTo t) s.lanes)

theorem State.Coherent.sound {C L : Prop} {s : State} (hc : s.Canonical) (h : s.Coherent) (hC : C → s.device ≠ .config)
    (hL : L → s.InRange ∧ s.Linked) : s.Sound C L {} none where
  tabled := ⟨hc.tenants, hc.lanes, hc.units⟩
  recencyOnce := h.recencyOnce
  recency := h.recency
  named := h.named
  bound := h.boundCount
  laneWaitOnce := h.laneWaitOnce
  waiting t x hb _ := h.waiting t x hb
  unitWaitOnce := h.unitWaitOnce
  unitWait l _ := h.unitWait l
  pools := h.pools
  parked := h.parked.trans (countP_eq_tableSum (fun r : UnitRec => decide (r.state = .parked)) s.units)
  owned t := (h.owned t).trans (countP_eq_tableSum (fun r : UnitRec => r.ownedBy t) s.units)
  floors := h.floors
  view _ := trivial
  started := hC
  linked hl :=
    have hr := (hL hl).1
    have k := (hL hl).2
    { intake := k.intake
      frames := k.frames
      laneWait := fun t x hm => ⟨(k.laneWait t x hm).1, (k.laneWait t x hm).2.1, fun _ => (k.laneWait t x hm).2.2⟩
      boundLane := fun l t x hh => by
        obtain ⟨hb, hs⟩ := Lane.held_eq_some.mp hh
        obtain ⟨hx, hbinding, ho⟩ := k.boundLane l t x hb hs
        exact ⟨hx, hbinding, fun _ => ho⟩
      boundStream := fun t x l hx hb => Lane.held_eq_some.mpr (k.boundStream t x l hx hb)
      laneOwner := k.laneOwner
      quota := fun hd t => by
        have := k.quota hd t
        dsimp only
        omega
      inFlight := k.inFlight
      records := fun t => ⟨(hr.tenants t).active.laneQuota.1, fun p hp => ((hr.tenants t).pendingPolicy p hp).laneQuota.1⟩
      late := nofun }

theorem State.Sound.coherent {C L : Prop} {s : State} (h : s.Sound C L {} none) : s.Coherent where
  recencyOnce := h.recencyOnce
  recency := h.recency
  named := h.named
  bound t := (h.bound t).trans (countP_eq_tableSum (fun v : Lane => v.isBound && v.belongsTo t) s.lanes).symm
  laneWaitOnce := h.laneWaitOnce
  waiting t x hb := h.waiting t x hb nofun
  unitWaitOnce := h.unitWaitOnce
  unitWait l := h.unitWait l nofun
  pools := h.pools
  parked := h.parked.trans (countP_eq_tableSum (fun r : UnitRec => decide (r.state = .parked)) s.units).symm
  owned t := (h.owned t).trans (countP_eq_tableSum (fun r : UnitRec => r.ownedBy t) s.units).symm
  floors := h.floors

/-- Linked, but for its first clause, which is said apart. -/
theorem State.LinkedBut.linked {s : State} (k : s.LinkedBut {}) (hconfig : s.device = .config →
    s.dies = [] ∧ s.lanes = [] ∧ s.laneWait = [] ∧ s.unitWait = [] ∧ ∀ t x, (s.stream t x).parkedUnit = none) : s.Linked where
  config := hconfig
  intake := k.intake
  frames := k.frames
  laneWait t x hm := ⟨(k.laneWait t x hm).1, (k.laneWait t x hm).2.1, (k.laneWait t x hm).2.2 nofun⟩
  boundLane l t x hb hs := by
    obtain ⟨hx, hbinding, ho⟩ := k.boundLane l t x (Lane.held_eq_some.mpr ⟨hb, hs⟩)
    exact ⟨hx, hbinding, ho nofun⟩
  boundStream t x l hx hb := Lane.held_eq_some.mp (k.boundStream t x l hx hb)
  laneOwner := k.laneOwner
  quota hd t := by
    have := k.quota hd t
    dsimp only at this
    omega
  inFlight := k.inFlight

namespace State.Sound

variable {C L : Prop} {s : State}

/-- The state after a reset, which is not started. -/
theorem afterReset (hC : ¬C) (hold : Bool) : (s.afterReset hold).Sound C L {} none :=
  (State.reset_coherent.sound State.reset_canonical (fun hc => absurd hc hC)
    fun _ => ⟨State.reset_inRange, State.reset_linked⟩).core .records

/-- Every command keeps the lists, the counts and the links; all but the resets keep the part started. -/
theorem exec (h : s.Sound C L {} none) (hr : L → s.InRange) (hd : L → s.device = .config → s.dies = []) {i : Instr} {t : State}
    (hi : C → ∀ hold, i ≠ .resetN hold ∧ i ≠ .deviceResetTakesEffect hold) (e : exec i s = .next t) : t.Sound C L {} none := by
  have hn : s.noteRx.Sound C L {} none := h.core .records
  have hreply : ∀ {q : State} {tag status body}, q.Sound C L {} none → (q.reply tag status body).Sound C L {} none :=
    fun hq => hq.core (SameCore.refl _).reply
  have hstale : s.staleReport.Sound C L {} none := h.core (SameCore.refl s).staleReport
  have hfail : s.countFail.Sound C L {} none := h.core (SameCore.refl s).modCounters
  have htimeout : s.countTimeout.Sound C L {} none := h.core (SameCore.refl s).modCounters
  cases i with
  | write => cases e; exact h.receive fun _ => hn.takeWrite (fun hL => inRange_closedToCommands.records {} (hr hL)) _ _ _ _ _ _ _
  | configure => cases e; exact h.control _ fun _ => hn.takeConfigure hd _ _
  | start => cases e; exact h.control _ fun _ => hn.takeStart _
  | declareUnits => cases e; exact h.control _ fun _ => hn.takeDeclare _ _ _
  | supplyUnits => cases e; exact h.control _ fun _ => hn.takeSupply _ _ _
  | releaseUnits => cases e; exact h.control _ fun _ => hn.takeRelease _ _ _ _
  | invalidate => cases e; exact h.control _ fun _ => hn.takeInvalidate _ _ _
  | reclaimUnit => cases e; exact h.control _ fun _ => hn.takeReclaim _ _
  | admitTenant => cases e; exact h.control _ fun hf => hn.takeAdmit _ _ hf
  | setPolicy => cases e; exact h.control _ fun hf => hn.takeSetPolicy _ _ _ hf
  | cancelPending => cases e; exact h.control _ fun _ => hn.takeCancel _ _
  | suspendTenant => cases e; exact h.control _ fun _ => hn.takeSuspend _ _
  | resumeTenant => cases e; exact h.control _ fun _ => hn.takeResume _ _
  | removeTenant => cases e; exact h.control _ fun _ => hn.takeRemove _ _ _
  | flushTenant => cases e; exact h.control _ fun _ => hn.takeFlush _ _
  | startScan => cases e; exact h.control _ fun _ => hn.takeStartScan _ _ _
  | takeNomination => cases e; exact h.control _ fun _ => hn.takeNomination _ _ _
  | forceEpoch => cases e; exact h.control _ fun _ => hn.takeForceEpoch _ _
  | policyHold => cases e; exact h.control _ fun _ => hn.takePolicyHold _ _
  | grantCredits => cases e; exact h.control _ fun _ => hn.takeGrant _ _
  | query => cases e; exact h.control _ fun _ => hn.takeQuery _ _ _
  | resumeFromHold => cases e; exact h.control _ fun _ => hn.takeResumeFromHold _
  | deviceReset => cases e; exact h.receive fun _ => hn.core .records
  | deviceResetTakesEffect hold => cases e; exact ite_keeps (afterReset (fun hc => (hi hc hold).2 rfl) hold) h
  | resetN hold => cases e; exact afterReset (fun hc => (hi hc hold).1 rfl) hold
  | linkResync => cases e; exact ite_keeps h (h.core .records)
  | resyncDelimiter => cases e; exact ite_keeps h (h.core .records)
  | unassignedFrame => cases e; exact h.receive fun _ => hreply hn
  | frameDiscard why =>
    cases e
    exact ite_keeps h (h.core (SameCore.records (s := s) (t := { s with
      resyncArmed := false, receiving := receivingAfter why })).discardFrame)
  | sendReply => exact h.sendReply e
  | sendPlacementReport => exact h.sendPlacementReport e
  | sendNotice => exact h.sendNotice e
  | sectorOffer => cases e; exact (h.offer _).conclude
  | programDone =>
    cases e
    split
    · exact h.programDone _ _ _ _ _
    · exact hstale
  | mediaReportCorrupt => cases e; exact hstale
  | programFail =>
    cases e
    split
    · exact hfail.programLost _ _ _ _
    · exact hstale
  | programTimeout =>
    cases e
    split
    · exact htimeout.programLost _ _ _ _
    · exact h
  | sealDone => cases e; exact ite_keeps (((h.sealUnit _).freeSealing _).finishOrder _) hstale
  | sealFail => cases e; exact ite_keeps (hfail.sealLost _ _) hstale
  | sealTimeout =>
    cases e
    split
    · exact htimeout.sealLost _ _
    · exact h
  | epochBoundary => cases e; exact ite_keeps (h.boundary _ _).conclude h
  | scanVisit =>
    cases e
    split
    · exact h.core (SameCore.refl s).visitNext
    · exact h
  | drainDeadlineExpiry => cases e; exact ite_keeps (Sound.conclude (h.core (SameCore.refl s).abortQueue)) h
  | holdAsserted => exact h.holdAsserted e
  | holdDeasserted => exact h.holdDeasserted e

end State.Sound

/-- A step takes a command on the state without it, or leaves the state as it is. -/
theorem step_cases {s t : State} (e : step s = .next t) :
    t = s ∨ ∃ c rest, s.pending = c :: rest ∧ exec c { s with pending := rest } = .next t := by
  unfold step at e
  split at e
  · cases e
    exact .inl rfl
  · exact .inr ⟨_, _, ‹_›, e⟩

/-- Settles O58: every command is followed once, on states in which an entry may be late. -/
theorem listsAndCountsKept : Obligations.ListsAndCountsKept := by
  intro s t hc h e
  rcases step_cases e with rfl | ⟨c, rest, -, e⟩
  · exact h
  · have hsound : s.Sound False False {} none := h.sound hc False.elim False.elim
    exact (State.Sound.exec (s := { s with pending := rest }) (hsound.core .records) False.elim False.elim False.elim e).coherent

end Sys2Proof.Machine

/-! ## Before START

Before START nothing has been ordered, bound or parked, and nothing waits: the first clause of Linked. The commands that run
then find no lane, no stream that waits and no die at work. -/

namespace Sys2Proof.Machine

/-- Before START: the first clause of Linked. -/
structure State.Idle (s : State) : Prop where
  device : s.device = .config
  dies : s.dies = []
  lanes : s.lanes = []
  laneWait : s.laneWait = []
  unitWait : s.unitWait = []
  parkedUnit : ∀ t x, (s.stream t x).parkedUnit = none

namespace State.Idle

/-- A state that holds the same tables and queues. -/
theorem records {s t : State} (h : s.Idle) (device : t.device = s.device := by rfl) (dies : t.dies = s.dies := by rfl)
    (lanes : t.lanes = s.lanes := by rfl) (laneWait : t.laneWait = s.laneWait := by rfl)
    (unitWait : t.unitWait = s.unitWait := by rfl) (streams : t.streams = s.streams := by rfl) : t.Idle :=
  ⟨device.trans h.device, dies.trans h.dies, lanes.trans h.lanes, laneWait.trans h.laneWait, unitWait.trans h.unitWait,
    fun t x => by rw [stream_of_streams streams]; exact h.parkedUnit t x⟩

variable {s : State} (h : s.Idle)
include h

/-! ### What such a state holds -/

theorem lane_eq (l : Nat) : s.lane l = Lane.reset := by
  unfold State.lane
  rw [h.lanes]
  rfl

theorem laneIds_eq : s.laneIds = [] := by
  unfold State.laneIds
  rw [h.lanes]
  rfl

theorem busy_eq (d : Nat) : (s.die d).busy = none := by
  unfold State.die
  rw [h.dies]
  rfl

/-! ### What leaves it so -/

theorem reply {tag status body} : (s.reply tag status body).Idle := h.records

theorem modTenant {t f} : (s.modTenant t f).Idle := h.records

theorem modCounters {f} : (s.modCounters f).Idle := h.records

theorem post {src kind d} : (s.post src kind d).Idle := by
  obtain ⟨n, a, e⟩ := post_eq s src kind d
  rw [e]
  exact h.records

/-- A stream is rewritten and holds no parked unit. -/
theorem setStream {t x v} (hv : v.parkedUnit = none) : (s.setStream t x v).Idle :=
  ⟨h.device, h.dies, h.lanes, h.laneWait, h.unitWait, fun n y => by
    rw [setStream_stream]
    split
    · exact hv
    · exact h.parkedUnit n y⟩

theorem scanTrigger : s.scanTrigger.Idle := ite_keeps h.records h.modCounters

theorem lowWaterCheck {g} : (s.lowWaterCheck g).Idle :=
  ite_keeps (ite_keeps h.post.scanTrigger h.post) h

theorem endFrames {p status order} : (s.endFrames p status order).Idle := by
  obtain ⟨_, _, e⟩ := endFrames_only s p status order
  rw [e]
  exact h.records

/-! ### The cascade -/

theorem serviceOnce : s.serviceOnce.Idle := by
  unfold State.serviceOnce
  dsimp only
  split
  · exact h.records
  · rename_i hq
    rw [h.unitWait] at hq
    cases hq

theorem handOver {l} : (s.handOver l).Idle := by
  unfold State.handOver
  split
  · exact h
  · rename_i hq
    rw [h.laneWait] at hq
    cases hq

theorem checkOnce : s.checkOnce.Idle := by
  unfold State.checkOnce
  dsimp only
  rw [if_neg (by simp [h.laneWait])]
  exact h.records

theorem serveHead {t} : (s.serveHead t).Idle := by
  unfold State.serveHead State.servesHead
  rw [h.device]
  exact h

theorem displaceParked_eq {t x} : State.displaceParked t s x = s := by
  unfold State.displaceParked
  rw [h.parkedUnit]

theorem clearStream {t x} : (State.clearStream t s x).Idle := by
  have hleft : ({ s with laneWait := s.laneWait.filter (fun e => e ≠ (t, x)) } : State).Idle :=
    { h with laneWait := by simp [h.laneWait] }
  unfold State.clearStream
  dsimp only
  rw [hleft.displaceParked_eq]
  exact hleft.setStream (hleft.parkedUnit t x)

theorem raiseCheck : s.raiseCheck.Idle := h.records

theorem finalClose {t} : (s.finalClose t).Idle := by
  have hmark : (s.markClosed t).Idle := h.modTenant
  have hlanes : (s.markClosed t).boundLanesOf t = [] := by
    unfold State.boundLanesOf
    rw [hmark.laneIds_eq]
    rfl
  have hclear : (allStreams.foldl (State.clearStream t) (s.markClosed t)).Idle :=
    foldl_closed (P := State.Idle) (fun _ _ hq => hq.clearStream) _ hmark
  unfold State.finalClose
  dsimp only
  rw [hlanes]
  exact hclear.raiseCheck

theorem laneStepOnce {q : State} (hq : s.laneStepOnce = some q) : q.Idle := by
  unfold State.laneStepOnce at hq
  split at hq
  · cases hq
    exact h.serviceOnce
  · split at hq
    · cases hq
      exact handOver h.records
    · split at hq
      · cases hq
        exact h.checkOnce
      · cases hq

theorem workStep {q : State} (hq : s.workStep = some q) : q.Idle := by
  unfold State.workStep at hq
  split at hq
  · rename_i hlane
    cases hq
    exact h.laneStepOnce hlane
  · split at hq
    · cases hq
      exact serveHead h.records
    · obtain ⟨t, -, rfl⟩ := Option.map_eq_some_iff.mp hq
      exact h.finalClose

theorem runLanes : s.runLanes.Idle := Closed.cascade (P := State.Idle) (fun hq hs => hs.laneStepOnce hq) h

theorem runWork : s.runWork.Idle := Closed.cascade (P := State.Idle) (fun hq hs => hs.workStep hq) h

theorem vacate {t} : (s.vacate t).Idle :=
  modTenant (foldl_closed (P := State.Idle) (f := State.resetStream t) (fun _ _ hq => hq.setStream rfl) _ h)

theorem completeDrain {t} : (s.completeDrain t).Idle :=
  ite_keeps (ite_keeps h.modTenant.post.vacate h.modTenant.post) h

theorem conclude : s.conclude.Idle := by
  have hwork := h.runWork
  unfold State.conclude
  dsimp only
  rw [if_neg (by simp [hwork.device])]
  exact foldl_closed (P := State.Idle) (f := State.completeDrain) (fun _ _ hq => hq.completeDrain) _ hwork

/-! ### The commands -/

/-- What every such state has, and the part has when the request is taken, it has when the request comes. -/
theorem receive_keeps {P : State → Prop} (hP : ∀ q : State, q.Idle → P q) {fits act} (ha : P (act s.noteRx)) :
    P (s.receive fits act) :=
  ite_keeps (hP _ h) (ite_keeps (hP _ (post h.records)) (ite_keeps ha (hP _ (post h.records))))

theorem control_keeps {P : State → Prop} (hP : ∀ q : State, q.Idle → P q) {tag fits act} (ha : P (act s.noteRx)) :
    P (s.control tag fits act) :=
  h.receive_keeps hP (ite_keeps (hP _ h.records) ha)

theorem receive {fits act} (ha : (act s.noteRx).Idle) : (s.receive fits act).Idle := h.receive_keeps (fun _ hq => hq) ha

theorem control {tag fits act} (ha : (act s.noteRx).Idle) : (s.control tag fits act).Idle := h.control_keeps (fun _ hq => hq) ha

theorem tenantRequest {tag tenant act} (ha : (act s).Idle) : (s.tenantRequest tag tenant act).Idle := by
  unfold State.tenantRequest
  split
  · exact h.reply
  · exact ha

theorem takeWrite {tag tenant hint flags writeTag count sectors} :
    (s.takeWrite tag tenant hint flags writeTag count sectors).Idle := by
  unfold State.takeWrite
  split
  · exact h.reply
  · split
    · exact h.reply
    · rename_i hnone
      unfold State.arrivalRefusal at hnone
      rw [h.device] at hnone
      split at hnone <;> cases hnone

theorem takeConfigure {tag raw} : (s.takeConfigure tag raw).Idle := by
  unfold State.takeConfigure
  split
  · split
    · exact h.records
    · exact h.reply
  · exact h.reply

theorem takeDeclare {tag count entries} : (s.takeDeclare tag count entries).Idle := by
  have hone : ∀ e q, State.Idle q → (declareOne e q).1.Idle := fun e q hq => by
    unfold declareOne
    dsimp only
    split_ifs <;> exact hq.records
  exact ite_keeps h.reply (ite_keeps (handleEntries_keeps hone entries h).reply h.reply)

theorem takeSupply {tag count entries} : (s.takeSupply tag count entries).Idle := by
  have hone : ∀ e q, State.Idle q → (supplyOne e q).1.Idle := fun e q hq => by
    unfold supplyOne
    dsimp only
    split_ifs <;> exact hq.records
  have hall := handleEntries_keeps hone entries h
  exact ite_keeps h.reply (ite_keeps h.reply (conclude (reply (ite_keeps (runWork hall.records) hall))))

theorem release {u} : (s.release u).Idle := by
  have hdisown : ∀ {q : State} {t}, q.Idle → (q.disown t).Idle := fun hq => ite_keeps hq.modTenant.vacate hq.modTenant
  unfold State.release
  dsimp only
  split
  · exact hdisown h.records
  · exact h.records

theorem takeRelease {tag force count entries} : (s.takeRelease tag force count entries).Idle := by
  have hone : ∀ e q, State.Idle q → (releaseOne (flagOf force) e q).1.Idle := fun e q hq => by
    unfold releaseOne
    dsimp only
    split
    · exact hq
    · split
      · exact lowWaterCheck hq.records
      · split_ifs
        · exact hq.release
        · exact hq.release.records
        · exact hq
      · exact hq
  exact ite_keeps h.reply (ite_keeps h.reply (handleEntries_keeps hone entries h).reply)

theorem takeInvalidate {tag count entries} : (s.takeInvalidate tag count entries).Idle := by
  have hone : ∀ e q, State.Idle q → (invalidateOne e q).1.Idle := fun e q hq => by
    unfold invalidateOne
    dsimp only
    split
    · exact hq
    · split
      · exact ite_keeps (P := State.Idle) hq.records hq.records
      · exact hq.records
  exact ite_keeps h.reply (handleEntries_keeps hone entries h).reply

theorem takeReclaim {tag unit} : (s.takeReclaim tag unit).Idle := by
  unfold State.takeReclaim
  dsimp only
  split_ifs <;> exact h.records

theorem sample {t source x} : (s.sample t source x).Idle := by
  unfold State.sample State.classifySample
  dsimp only
  split_ifs
  · exact h.modTenant.post
  · exact h.modTenant
  · exact h

theorem takeNomination {tag scope tenant} : (s.takeNomination tag scope tenant).Idle := by
  unfold State.takeNomination
  split
  · exact h.reply
  · split
    · exact h.reply
    · unfold State.take
      dsimp only
      split
      · exact sample h.records
      · exact h.records

theorem takeAdmit {tag tenant raw} : (s.takeAdmit tag tenant raw).Idle := by
  have henrol : ∀ t p, (s.enrol t p).Idle := fun t p =>
    modTenant (foldl_closed (P := State.Idle) (f := fun q x => q.setStream t x StreamCtx.reset) (fun _ _ hq => hq.setStream rfl) _ h)
  refine h.tenantRequest ?_
  dsimp only
  split
  · split
    · exact h.reply
    · exact ite_keeps h.reply (henrol _ _).reply
  · exact h.reply
  · exact h.reply

/-- A lane without a stream is not evicted. -/
theorem quotaEvict {t n} : (State.quotaEvict t n s).Idle := by
  induction n generalizing s with
  | zero => exact h
  | succ n ih =>
    have hself : (s.selfEvict t).Idle := by
      unfold State.selfEvict
      split
      · unfold State.evict
        rw [h.lane_eq]
        exact h
      · exact h
    exact ite_keeps (ih hself) h

theorem applyRecord {t p} : (s.applyRecord t p).Idle := by
  have hquota : ((s.modTenant t (Tenant.under p)).handQuota t).Idle := h.modTenant.quotaEvict.runLanes
  have hfloor : ∀ {q : State} {old new}, q.Idle → (q.handFloor old new).Idle := fun hq =>
    ite_keeps (runLanes hq.records) hq
  have hpools : ∀ {q : State} {old new}, q.Idle → (q.handPools t old new).Idle := fun hq =>
    ite_keeps (runLanes hq.records) hq
  exact (hpools (hfloor hquota)).records

theorem takeSetPolicy {tag tenant whenCode raw} : (s.takeSetPolicy tag tenant whenCode raw).Idle := by
  refine h.tenantRequest ?_
  dsimp only
  split
  · split
    · exact ite_keeps h.reply h.applyRecord.runWork.reply.conclude
    · exact ite_keeps h.reply h.modTenant.reply
    · exact h.reply
  · exact h.reply

theorem takeCancel {tag tenant} : (s.takeCancel tag tenant).Idle :=
  h.tenantRequest (ite_keeps (ite_keeps h.modTenant.reply h.reply) h.reply)

theorem takeSuspend {tag tenant} : (s.takeSuspend tag tenant).Idle :=
  h.tenantRequest (ite_keeps (runWork h.records).reply.conclude h.reply)

theorem takeResume {tag tenant} : (s.takeResume tag tenant).Idle :=
  h.tenantRequest (ite_keeps (runWork h.records).reply.conclude h.reply)

theorem takeRemove {tag tenant mode} : (s.takeRemove tag tenant mode).Idle := by
  have hremove : ∀ m, (s.remove tag tenant.toNat m).Idle := fun m => by
    have hqueue : ((s.enterDraining tenant.toNat m).drainQueue tenant.toNat m).1.Idle := by
      cases m
      · exact h.records
      · exact h.modTenant.endFrames
    exact conclude (reply (runWork (ite_keeps hqueue.modTenant hqueue)))
  unfold State.takeRemove
  split
  · exact h.reply
  · split
    · exact h.reply
    · exact ite_keeps h.reply (ite_keeps (hremove _) h.reply)

theorem takeFlush {tag tenant} : (s.takeFlush tag tenant).Idle := by
  have hflush : (s.flush tag tenant.toNat).Idle := by
    have hlanes : s.lanesOf tenant.toNat = [] := by
      unfold State.lanesOf
      rw [h.laneIds_eq]
      rfl
    unfold State.flush
    dsimp only
    rw [hlanes]
    exact h.runWork.reply.conclude
  exact ite_keeps h.reply (ite_keeps h.reply (ite_keeps h.reply (ite_keeps h.reply hflush)))

theorem clearCounters {target} : (s.clearCounters target).Idle := by
  unfold State.clearCounters
  split
  · exact h.records
  · exact h.records
  · exact h.setStream (h.parkedUnit _ _)
  · exact h

theorem takeQuery {tag target clear} : (s.takeQuery tag target clear).Idle := by
  unfold State.takeQuery
  split
  · exact reply (ite_keeps h.clearCounters h)
  · exact h.reply

theorem takePolicyHold {tag code} : (s.takePolicyHold tag code).Idle := by
  unfold State.takePolicyHold
  split <;> exact h.records

theorem takeStartScan {tag scope tenant} : (s.takeStartScan tag scope tenant).Idle := by
  unfold State.takeStartScan
  split
  · exact h.reply
  · split
    · exact h.reply
    · exact ite_keeps h.reply h.records

/-! ### What the part does by itself -/

/-- No order waits, so no die is sent one. -/
theorem grantRoom : s.grantRoom.Idle := by
  have hnone : ∀ d, s.wantsRoom d = false := fun d => by
    unfold State.wantsRoom State.eligible State.die
    rw [h.dies]
    rfl
  unfold State.grantRoom
  dsimp only
  split
  · rename_i d hd
    exact absurd (List.find?_some hd) (by simp [hnone])
  · exact h

theorem staleReport : s.staleReport.Idle := h.modCounters.post

theorem discardFrame : s.discardFrame.Idle := h.modCounters.post

theorem completeScan : s.completeScan.Idle := by
  have hdone : ∀ q : State, q.Idle → ({ q with scan := none } : State).Idle := fun _ hq => hq.records
  have hscan : ∀ q : State, q.Idle → q.continuousScan.Idle := fun _ hq => ite_keeps (P := State.Idle) hq.records hq
  exact ite_keeps (hscan _ (hdone _ (post h.records))) (hdone _ (post h.records))

theorem visitNext {sc} : (s.visitNext sc).Idle := by
  have hvisit : (s.visitUnit sc).Idle := ite_keeps (P := State.Idle) h.records h.records
  exact ite_keeps hvisit hvisit.completeScan

/-- No head is served. -/
theorem offer_eq {t} : s.offer t = s := by
  unfold State.offer State.servesHead
  rw [h.device]
  split <;> rfl

theorem programOf_eq {d seq u} : s.programOf d seq u = none := by
  unfold State.programOf
  rw [h.busy_eq]

theorem sealAnswers_eq {d seq u} : s.sealAnswers d seq u = false := by
  unfold State.sealAnswers
  rw [h.busy_eq]

omit h in
theorem reset : State.reset.Idle := ⟨rfl, rfl, rfl, rfl, rfl, fun _ _ => rfl⟩

omit h in
theorem afterReset (hold : Bool) : (s.afterReset hold).Idle := reset.records

/-- A command on a part that has not been started starts it, or leaves nothing ordered, bound or waiting. -/
theorem exec {i : Instr} {t : State} (e : exec i s = .next t) (hi : ∀ tag, i ≠ .start tag) : t.Idle := by
  have hn : s.noteRx.Idle := h.records
  have hrun : ∀ q : State, q.Idle → ¬q.device = .running := fun q hq => by simp [hq.device]
  cases i with
  | start tag => exact absurd rfl (hi tag)
  | write => cases e; exact h.receive hn.takeWrite
  | configure => cases e; exact h.control hn.takeConfigure
  | declareUnits => cases e; exact h.control hn.takeDeclare
  | supplyUnits => cases e; exact h.control hn.takeSupply
  | releaseUnits => cases e; exact h.control hn.takeRelease
  | invalidate => cases e; exact h.control hn.takeInvalidate
  | reclaimUnit => cases e; exact h.control hn.takeReclaim
  | admitTenant => cases e; exact h.control hn.takeAdmit
  | setPolicy => cases e; exact h.control hn.takeSetPolicy
  | cancelPending => cases e; exact h.control hn.takeCancel
  | suspendTenant => cases e; exact h.control hn.takeSuspend
  | resumeTenant => cases e; exact h.control hn.takeResume
  | removeTenant => cases e; exact h.control hn.takeRemove
  | flushTenant => cases e; exact h.control hn.takeFlush
  | startScan => cases e; exact h.control hn.takeStartScan
  | takeNomination => cases e; exact h.control hn.takeNomination
  | forceEpoch =>
    cases e
    refine h.control ?_
    unfold State.takeForceEpoch
    rw [if_neg (hrun _ hn)]
    exact hn.reply
  | policyHold => cases e; exact h.control hn.takePolicyHold
  | grantCredits => cases e; exact h.control (ite_keeps hn.reply (reply hn.records))
  | query => cases e; exact h.control hn.takeQuery
  | resumeFromHold =>
    cases e
    refine h.control ?_
    unfold State.takeResumeFromHold
    rw [hn.device]
    exact hn.reply
  | deviceReset => cases e; exact h.receive h.records
  | deviceResetTakesEffect hold => cases e; exact ite_keeps (afterReset hold) h
  | resetN hold => cases e; exact afterReset hold
  | linkResync => cases e; exact ite_keeps h h.records
  | resyncDelimiter => cases e; exact ite_keeps h h.records
  | unassignedFrame => cases e; exact h.receive hn.reply
  | frameDiscard => cases e; exact ite_keeps h (discardFrame h.records)
  | sendReply =>
    cases e
    split
    · exact h
    · exact ite_keeps h h.records
  | sendPlacementReport =>
    cases e
    split
    · exact ite_keeps (grantRoom h.records) h
    · exact h
  | sendNotice =>
    cases e
    split
    · exact ite_keeps h.records h
    · exact h
  | sectorOffer =>
    cases e
    rw [h.offer_eq]
    exact h.conclude
  | programDone =>
    cases e
    rw [h.programOf_eq]
    exact h.staleReport
  | mediaReportCorrupt => cases e; exact h.staleReport
  | programFail =>
    cases e
    rw [h.programOf_eq]
    exact h.staleReport
  | programTimeout =>
    cases e
    rw [h.busy_eq]
    exact h
  | sealDone =>
    cases e
    rw [h.sealAnswers_eq]
    exact h.staleReport
  | sealFail =>
    cases e
    rw [h.sealAnswers_eq]
    exact h.staleReport
  | sealTimeout =>
    cases e
    rw [h.busy_eq]
    exact h
  | epochBoundary =>
    cases e
    rw [if_neg (by simp [h.device])]
    exact h
  | scanVisit =>
    cases e
    split
    · exact h.visitNext
    · exact h
  | drainDeadlineExpiry => cases e; exact ite_keeps (conclude h.endFrames) h
  | holdAsserted =>
    have hlevel : ({ s with holdLevel := true } : State).Idle := h.records
    cases e
    dsimp only
    rw [if_neg (by simp [h.device])]
    exact hlevel
  | holdDeasserted =>
    have hlevel : ({ s with holdLevel := false } : State).Idle := h.records
    cases e
    dsimp only
    rw [if_neg (by simp [h.device])]
    exact hlevel

/-- While the part has not been started, a command leaves it so; a START that is taken starts it. -/
theorem exec_of_config {L : Prop} (hs : s.Sound False L {} none) {i : Instr} {t : State} (e : Machine.exec i s = .next t)
    (hd : t.device = .config) : t.Idle := by
  by_cases hi : ∃ tag, i = .start tag
  · obtain ⟨tag, rfl⟩ := hi
    have hstarted : (s.noteRx.takeStart tag).Sound True L {} none :=
      (hs.core (SameCore.records (s := s) (t := s.noteRx))).started_of_start h.device tag
    cases e
    exact h.control_keeps (P := fun q => q.device = .config → q.Idle) (fun _ hq _ => hq)
      (fun hc => absurd hc (hstarted.started trivial)) hd
  · exact h.exec e fun tag hstart => hi ⟨tag, hstart⟩

end State.Idle

/-- A part that has been started is before START again only through a reset. -/
theorem State.Sound.exec_of_started {s t : State} (h : s.Sound True True {} none) (hr : s.InRange) {i : Instr}
    (e : Machine.exec i s = .next t) (hd : t.device = .config) : t.Idle := by
  have hs : s.device ≠ .config := h.started trivial
  by_cases hi : ∃ hold, i = .resetN hold ∨ i = .deviceResetTakesEffect hold
  · obtain ⟨hold, rfl | rfl⟩ := hi
    · cases e
      exact State.Idle.afterReset hold
    · cases e
      exact ite_keeps (P := fun q => q.device = .config → q.Idle) (fun _ => State.Idle.afterReset hold)
        (fun hc => absurd hc hs) hd
  · have ht : t.Sound True True {} none := h.exec (fun _ => hr) (fun _ hc => absurd hc hs)
      (fun _ hold => ⟨fun e => hi ⟨hold, .inl e⟩, fun e => hi ⟨hold, .inr e⟩⟩) e
    exact absurd hd (ht.started trivial)

/-- Settles O59: the links are followed through every command with the lists and the counts; its first clause apart, on
states that have not been started. -/
theorem linksKept : Obligations.LinksKept := by
  intro s t hc hr h hl e
  rcases step_cases e with rfl | ⟨c, rest, -, e⟩
  · exact hl
  have hrange : ({ s with pending := rest } : State).InRange := inRange_closedToCommands.records {} hr
  have hq : ∀ {C : Prop}, (C → s.device ≠ .config) → ({ s with pending := rest } : State).Sound C True {} none := fun hC =>
    State.Sound.core (h.sound hc hC fun _ => ⟨hr, hl⟩) .records
  have ht : t.Sound False True {} none :=
    (hq False.elim).exec (fun _ => hrange) (fun _ hd => (hl.config hd).1) False.elim e
  refine (ht.linked trivial).linked fun hd => ?_
  have hidle : t.Idle := by
    by_cases hs : s.device = .config
    · obtain ⟨hdies, hlanes, hlaneWait, hunitWait, hparked⟩ := hl.config hs
      have hbefore : ({ s with pending := rest } : State).Idle := ⟨hs, hdies, hlanes, hlaneWait, hunitWait, hparked⟩
      exact hbefore.exec_of_config (hq False.elim) e hd
    · exact State.Sound.exec_of_started (hq fun _ => hs) hrange e hd
  exact ⟨hidle.dies, hidle.lanes, hidle.laneWait, hidle.unitWait, hidle.parkedUnit⟩

end Sys2Proof.Machine

/-! ## The head of an admission queue -/

namespace Sys2Proof.Machine

theorem exec_sectorOffer (tenant : BitVec 10) (s : State) :
    exec (.sectorOffer tenant) s = .next (s.offer tenant.toNat).conclude := by
  rfl

theorem running_of_servesHead {s : State} {t : Nat} (h : s.servesHead t = true) : s.device = .running := by
  simp only [State.servesHead, Bool.and_eq_true, decide_eq_true_eq] at h
  exact h.1

theorem tenant_of_headOf {s : State} {t : Nat} {f : Frame} (h : s.headOf t = some f) : f.tenant = t := by
  simpa using List.find?_some h

/-- A changed head stays the head of its queue. -/
theorem headOf_modHead {s : State} {t : Nat} {f : Frame} {g : Frame → Frame} (h : s.headOf t = some f)
    (hg : (g f).tenant = f.tenant) : (s.modHead t g).headOf t = some (g f) := by
  have hl : ∀ l : List Frame, l.find? (fun e => e.tenant = t) = some f →
      (modFirst t g l).find? (fun e => e.tenant = t) = some (g f) := by
    intro l
    induction l with
    | nil => intro hn; cases hn
    | cons e rest ih =>
      intro hf
      by_cases he : e.tenant = t
      · obtain rfl : e = f := by simpa [he] using hf
        simp [modFirst, he, hg]
      · simp only [modFirst, if_neg he, List.find?_cons, decide_eq_false he] at hf ⊢
        exact ih hf
  exact hl _ h

/-- Two changes to a head, one after the other. -/
theorem modHead_modHead (s : State) (t : Nat) {g k : Frame → Frame} (hg : ∀ f, (g f).tenant = f.tenant) :
    (s.modHead t g).modHead t k = s.modHead t (fun f => k (g f)) := by
  have hl : ∀ l : List Frame, modFirst t k (modFirst t g l) = modFirst t (fun f => k (g f)) l := by
    intro l
    induction l with
    | nil => rfl
    | cons e rest ih => by_cases he : e.tenant = t <;> simp [modFirst, he, hg, ih]
  unfold State.modHead
  exact congrArg (fun l => { s with intake := l }) (hl s.intake)

/-- A head that stays when other frames leave is the head still. -/
theorem headOf_of_filter {s q : State} {t : Nat} {g : Frame} (h : s.headOf t = some g) {p : Frame → Bool} (hp : p g = true)
    (hq : q.intake = s.intake.filter p) : q.headOf t = some g := by
  have hl : ∀ l : List Frame, l.find? (fun e => e.tenant = t) = some g →
      (l.filter p).find? (fun e => e.tenant = t) = some g := by
    intro l
    induction l with
    | nil => intro hn; cases hn
    | cons e rest ih =>
      intro hf
      by_cases he : e.tenant = t
      · obtain rfl : e = g := by simpa [he] using hf
        simp [hp, he]
      · simp only [List.find?_cons, decide_eq_false he] at hf
        cases hpe : p e
        · simpa [hpe] using ih hf
        · simpa [hpe, he] using ih hf
  unfold State.headOf
  rw [hq]
  exact hl _ h

/-! ## The cases of an offer -/

theorem offer_skipped {s : State} {t : Nat}
    (h : s.servesHead t = false ∨ ∀ f, s.headOf t = some f → f.step ≠ .staging) : s.offer t = s := by
  unfold State.offer
  split
  · rfl
  · rename_i f hf
    refine if_neg fun hc => ?_
    simp only [Bool.and_eq_true, decide_eq_true_eq] at hc
    rcases h with h | h
    · rw [h] at hc
      exact absurd hc.1 Bool.false_ne_true
    · exact h f hf hc.2

section
variable {s : State} {t : Nat} {f : Frame} (hserve : s.servesHead t = true) (hhead : s.headOf t = some f)
  (hstep : f.step = .staging)
include hserve hhead hstep

theorem offer_bound {l : Nat} (hb : (s.stream t f.stream).binding = .bound l) : s.offer t = s.offerTo t f l := by
  simp [State.offer, hserve, hhead, hstep, hb]

theorem offer_notBound (hb : ∀ l, (s.stream t f.stream).binding ≠ .bound l) : s.offer t = s.serveAgain t := by
  cases hx : (s.stream t f.stream).binding with
  | bound l => exact absurd hx (hb l)
  | waiting | unbound => simp [State.offer, hhead, hserve, hstep, hx]

end

theorem offerTo_refused {s : State} {t l : Nat} {f : Frame} (hf : f.staged = 0) (hr : s.refusesFirst t l = true) :
    s.offerTo t f l = s.noSpaceReport t f.stream := by
  simp [State.offerTo, hf, hr]

theorem offerTo_taken {s : State} {t l : Nat} {f : Frame} (h : f.staged ≠ 0 ∨ s.refusesFirst t l = false) :
    s.offerTo t f l = match (s.lane l).room with | some k => s.stage t f l k | none => s.headAt t .half := by
  refine if_neg ?_
  simp only [Bool.and_eq_true, decide_eq_true_eq, not_and, Bool.not_eq_true]
  exact fun h0 => h.resolve_left fun hn => hn h0

theorem offerTo_roomless {s : State} {t l : Nat} {f : Frame} (h : f.staged ≠ 0 ∨ s.refusesFirst t l = false)
    (hroom : (s.lane l).room = none) : s.offerTo t f l = s.headAt t .half := by
  rw [offerTo_taken h, hroom]

theorem offerTo_staged {s : State} {t l : Nat} {f : Frame} {k : HalfId} (h : f.staged ≠ 0 ∨ s.refusesFirst t l = false)
    (hroom : (s.lane l).room = some k) : s.offerTo t f l = s.stage t f l k := by
  rw [offerTo_taken h, hroom]

/-! ## NO_SPACE -/

/-- A tenant's balance once the charges of frames of its own have come back (R52). -/
def Tenant.refunded (v : Tenant) (charged : List Frame) : Tenant :=
  { v with
    credit :=
      if v.active.allowance = 0 ∨ charged = [] then v.credit
      else min (v.credit + (charged.map (fun g => g.sectors.length)).sum) (2 * v.active.allowance) }

theorem Tenant.refunded_nil (v : Tenant) : v.refunded [] = v := by
  simp [Tenant.refunded]

/-- Two charges that come back one after the other end where their sum does. -/
theorem Tenant.refunded_cons (v : Tenant) (f : Frame) (rest : List Frame) :
    (v.refunded [f]).refunded rest = v.refunded (f :: rest) := by
  unfold Tenant.refunded
  by_cases ha : v.active.allowance = 0
  · simp [ha]
  · by_cases hr : rest = []
    · simp [hr, ha]
    · simp only [ha, hr, List.cons_ne_nil, or_false, if_false, List.map_cons, List.map_nil, List.sum_cons, List.sum_nil]
      congr 1
      omega

theorem refund_tenant {s : State} {f : Frame} (h0 : f.staged = 0) (n : Nat) :
    (s.refund f).tenant n =
      if n = f.tenant then (s.tenant f.tenant).refunded (if f.settlement = .charged then [f] else []) else s.tenant n := by
  by_cases hc : f.settlement = .charged
  · simp only [State.refund, hc, h0, decide_true, Bool.and_self, if_true, modTenant_tenant]
    refine if_congr Iff.rfl ?_ rfl
    unfold Tenant.refunded
    split
    · rename_i ha
      simp [ha]
    · rename_i ha
      simp [ha]
  · simp only [State.refund, hc, decide_false, Bool.false_and, Bool.false_eq_true, if_false, Tenant.refunded_nil]
    split
    · subst_vars
      rfl
    · rfl

/-- The charges of frames of one tenant with nothing staged come back to that tenant alone (R52). -/
theorem refundAll_tenant {t : Nat} {l : List Frame} (hl : ∀ g ∈ l, g.tenant = t ∧ g.staged = 0) (s : State) (n : Nat) :
    (s.refundAll l).tenant n =
      if n = t then (s.tenant t).refunded (l.filter (fun g => g.settlement = .charged)) else s.tenant n := by
  induction l generalizing s with
  | nil =>
    rw [List.filter_nil, Tenant.refunded_nil]
    split
    · subst_vars
      rfl
    · rfl
  | cons f rest ih =>
    obtain ⟨ht, h0⟩ := hl f (by simp)
    show ((s.refund f).refundAll rest).tenant n = _
    rw [ih (fun g hg => hl g (by simp [hg])), refund_tenant h0, refund_tenant h0, ht]
    by_cases hn : n = t
    · by_cases hc : f.settlement = .charged
      · simp [hn, hc, Tenant.refunded_cons]
      · simp [hn, hc, Tenant.refunded_nil]
    · simp [hn]

/-- A frame of stream x of tenant t with nothing staged: the ones that NO_SPACE ends (R53). -/
def Frame.unstagedOf (t x : Nat) (g : Frame) : Bool := g.tenant = t && g.stream = x && g.staged = 0

theorem Frame.unstagedOf_iff {t x : Nat} {g : Frame} :
    g.unstagedOf t x = true ↔ g.tenant = t ∧ g.stream = x ∧ g.staged = 0 := by
  simp [Frame.unstagedOf, and_assoc]

/-- The frames of stream x of tenant t with nothing staged have left with NO_SPACE, their charges returned (R52, R53). -/
def State.refuse (s : State) (t x : Nat) : State :=
  { s with
    intake := s.intake.filter (fun g => !g.unstagedOf t x)
    replies := s.replies ++ (s.intake.filter (Frame.unstagedOf t x)).map (fun g => ⟨g.tag, .noSpace, .write g.stream 0⟩)
    tenants := (s.refundAll (s.intake.filter (Frame.unstagedOf t x))).tenants }

/-- A NO_SPACE report: the frames are refused, counted, reported, and the head is to be served (R53). -/
theorem noSpaceReport_eq (s : State) (t x : Nat) :
    s.noSpaceReport t x =
      (((s.refuse t x).modTenantCounters t
          (fun c => { c with noSpace := bump c.noSpace (s.intake.filter (Frame.unstagedOf t x)).length })).post
        t .noSpace (BitVec.ofNat 32 x)).raiseHead t := by
  have hreply : (s.intake.filter (Frame.unstagedOf t x)).map
        (fun g => (⟨g.tag, .noSpace, .write g.stream g.staged⟩ : Reply)) =
      (s.intake.filter (Frame.unstagedOf t x)).map (fun g => ⟨g.tag, .noSpace, .write g.stream 0⟩) :=
    List.map_congr_left fun g hg => by
      rw [(Frame.unstagedOf_iff.mp (List.mem_filter.mp hg).2).2.2]
  have hrefuse : s.endFrames (Frame.unstagedOf t x) (fun _ => .noSpace) id = s.refuse t x := by
    obtain ⟨a, ha⟩ := Closed.refundAll_leaves (s.intake.filter (Frame.unstagedOf t x)) s
    unfold State.refuse
    rw [endFrames_eq, id, Closed.refundAll_intake, ha, hreply]
  rw [← hrefuse, ← List.countP_eq_length_filter]
  rfl

theorem noSpaceReport_intake (s : State) (t x : Nat) :
    (s.noSpaceReport t x).intake = s.intake.filter (fun g => !g.unstagedOf t x) := by
  rw [noSpaceReport_eq]
  exact post_intake _ _ _ _

theorem noSpaceReport_replies (s : State) (t x : Nat) :
    (s.noSpaceReport t x).replies =
      s.replies ++ (s.intake.filter (Frame.unstagedOf t x)).map (fun g => ⟨g.tag, .noSpace, .write g.stream 0⟩) := by
  rw [noSpaceReport_eq]
  exact post_replies _ _ _ _

/-- The charges come back (R52) and the refused frames are counted (R53); no other tenant is touched. -/
theorem noSpaceReport_tenant (s : State) (t x n : Nat) :
    (s.noSpaceReport t x).tenant n =
      if n = t then
        let refused := s.intake.filter (Frame.unstagedOf t x)
        { (s.tenant t).refunded (refused.filter (fun g => g.settlement = .charged)) with
          counters := { (s.tenant t).counters with noSpace := bump (s.tenant t).counters.noSpace refused.length } }
      else s.tenant n := by
  have hrefused : ∀ k, (s.refuse t x).tenant k = if k = t then
      (s.tenant t).refunded ((s.intake.filter (Frame.unstagedOf t x)).filter (fun g => g.settlement = .charged))
      else s.tenant k :=
    refundAll_tenant (fun g hg => by
      obtain ⟨ht, -, h0⟩ := Frame.unstagedOf_iff.mp (List.mem_filter.mp hg).2
      exact ⟨ht, h0⟩) s
  rw [noSpaceReport_eq]
  refine (post_tenant _ _ _ _ _).trans ?_
  rw [modTenantCounters_tenant, hrefused, hrefused, if_pos rfl]
  by_cases hn : n = t
  · rw [if_pos hn, if_pos hn]
    rfl
  · rw [if_neg hn, if_neg hn, if_neg hn]

/-- NO_SPACE is posted with the stream (R53). -/
theorem noSpaceReport_pendingOf (s : State) (t x : Nat) :
    (s.noSpaceReport t x).pendingOf t .noSpace =
        (match s.pendingOf t .noSpace with
          | none => some ⟨.noSpace, 1, BitVec.ofNat 32 x⟩
          | some e => some ⟨.noSpace, min (e.repeats + 1) 255, BitVec.ofNat 32 x⟩)
      ∧ ∀ n k, n ≠ t ∨ k ≠ .noSpace → (s.noSpaceReport t x).pendingOf n k = s.pendingOf n k := by
  rw [noSpaceReport_eq]
  exact ⟨post_pendingOf_same _ _ _ _, fun n k h => post_pendingOf _ _ _ _ n k h⟩

/-- What a NO_SPACE report leaves alone. -/
theorem noSpaceReport_frame (s : State) (t x : Nat) (q : State) (hq : q = s.noSpaceReport t x) :
    q = { s with
      intake := q.intake, replies := q.replies, tenants := q.tenants, notices := q.notices, attention := q.attention
      work := q.work } := by
  subst hq
  rw [noSpaceReport_eq]
  obtain ⟨n, a, e⟩ := post_eq ((s.refuse t x).modTenantCounters t
    (fun c => { c with noSpace := bump c.noSpace (s.intake.filter (Frame.unstagedOf t x)).length }))
    t .noSpace (BitVec.ofNat 32 x)
  rw [e]
  rfl

/-! ## Serving a head again -/

theorem conclude_of_runWork_eq {s q : State} (h : s.runWork = q.runWork) : s.conclude = q.conclude := by
  unfold State.conclude
  rw [h]

/-- What the internal events keep, the rest of the end of a command keeps as well. -/
theorem ClosedToEnd.conclude_of_runWork {P : State → Prop} (c : ClosedToEnd P) {s : State} (h : P s.runWork) :
    P s.conclude := by
  unfold State.conclude
  refine c.completeDrains ?_
  split
  · rename_i hf
    simp only [Bool.and_eq_true, decide_eq_true_eq] at hf
    exact c.toClosed.runWork (c.finishHold hf.1 h)
  · exact h

/-- A head that is to be served, with nothing else left to be done, is served first (log 8). -/
theorem workStep_raiseHead {s : State} (hw : s.work = Work.empty) (t : Nat) :
    (s.raiseHead t).workStep = some (s.serveHead t) := by
  have hback : ({ s.raiseHead t with work := { (s.raiseHead t).work with heads := [] } } : State) = s := by
    have hempty : ({ s.work with heads := [] } : Work) = s.work := by
      rw [hw]
      rfl
    exact congrArg (fun w => ({ s with work := w } : State)) hempty
  have hlanes : (s.raiseHead t).laneStepOnce = none := by
    simp [State.laneStepOnce, State.raiseHead, hw, Work.empty]
  have hheads : (s.raiseHead t).work.heads = [t] := by
    simp [State.raiseHead, hw, Work.empty]
  unfold State.workStep
  rw [hlanes]
  dsimp only
  rw [hheads]
  dsimp only
  rw [hback]

theorem cascade_succ {next : State → Option State} {n : Nat} {s t : State} (h : next s = some t) :
    State.cascade next (n + 1) s = State.cascade next n t := by
  rw [State.cascade, h]

theorem runWork_raiseHead {s : State} (hw : s.work = Work.empty) (t : Nat) :
    ∃ n, (s.raiseHead t).runWork = State.cascade State.workStep n (s.serveHead t) :=
  ⟨999999, cascade_succ (workStep_raiseHead hw t)⟩

/-- With nothing to be done, a head that is served and leaves nothing to be done is all that happens. -/
theorem conclude_raiseHead_quiet {s : State} (hw : s.work = Work.empty) {t : Nat} (h : (s.serveHead t).isQuiet) :
    (s.raiseHead t).conclude = s.serveHead t := by
  obtain ⟨n, e⟩ := runWork_raiseHead hw t
  have hrun : (s.raiseHead t).runWork = (s.serveHead t).runWork := by
    rw [e, cascade_quiet h.1 h.2.1, runWork_quiet h.1 h.2.1]
  rw [conclude_of_runWork_eq hrun, conclude_quiet h]

theorem conclude_raiseHead_keeps {s : State} (hw : s.work = Work.empty) (t : Nat) :
    WorkKeeps (s.serveHead t) (s.raiseHead t).conclude := by
  obtain ⟨n, e⟩ := runWork_raiseHead hw t
  have c := closed_workKeeps (s.serveHead t)
  refine c.conclude_of_runWork ?_
  rw [e]
  exact Closed.cascade c.toClosed.workStep (.refl _)

theorem headAt_headAt (s : State) (t : Nat) (a b : HeadStep) : (s.headAt t a).headAt t b = s.headAt t b :=
  modHead_modHead s t fun _ => rfl

theorem Frame.again_tenant (f : Frame) : f.again.tenant = f.tenant := by
  unfold Frame.again
  split <;> rfl

theorem headAt_again (s : State) (t : Nat) (a : HeadStep) : (s.modHead t Frame.again).headAt t a = s.headAt t a := by
  refine (modHead_modHead s t Frame.again_tenant).trans (congrArg (s.modHead t) (funext fun f => ?_))
  unfold Frame.again
  split <;> rfl

theorem creditStep_settled {s : State} {t : Nat} {f : Frame} (h : f.settlement ≠ .unsettled) :
    s.creditStep t f = s.headAt t .queued := if_pos h

/-- A settled frame passes the credit step and comes to the lane step (R43, R44). -/
theorem serveHead_settled {s : State} {t : Nat} {f : Frame} (hserve : s.servesHead t = true) (hhead : s.headOf t = some f)
    (hstep : f.step = .queued) (hset : f.settlement ≠ .unsettled) :
    s.serveHead t = (s.headAt t .queued).laneStep t f.stream := by
  have hqueued : (s.headAt t .queued).headOf t = some { f with step := .queued } :=
    headOf_modHead (g := fun e => { e with step := .queued }) hhead rfl
  have hsettle : s.settleAndBind t f = (s.headAt t .queued).laneStep t f.stream := by
    simp [State.settleAndBind, creditStep_settled hset, hqueued]
  unfold State.serveHead
  simp only [hserve, if_true, hhead, hstep, hsettle]

/-- So does the settled head of a frame whose stream has lost its lane (R46). -/
theorem serveHead_again {s : State} {t : Nat} {f : Frame} (hserve : s.servesHead t = true) (hhead : s.headOf t = some f)
    (hstep : f.step = .staging) (hset : f.settlement ≠ .unsettled) :
    (s.modHead t Frame.again).serveHead t = (s.headAt t .queued).laneStep t f.stream := by
  have hf : f.again = { f with step := .queued } := by
    simp [Frame.again, hstep]
  have hhead' : (s.modHead t Frame.again).headOf t = some { f with step := .queued } := by
    rw [← hf]
    exact headOf_modHead hhead f.again_tenant
  rw [serveHead_settled (s := s.modHead t Frame.again) hserve hhead' rfl hset, headAt_again]

/-- The lane step of a WAITING stream (R45). -/
theorem laneStep_waiting {s : State} {t x : Nat} (hb : (s.stream t x).binding = .waiting) :
    s.laneStep t x = s.headAt t .lane := by
  simp [State.laneStep, hb]

/-- The lane step of an UNBOUND stream (R45, R66). -/
theorem laneStep_unbound {s : State} {t x : Nat} (hb : (s.stream t x).binding = .unbound) :
    s.laneStep t x = (s.headAt t .lane).bindRequest t x := by
  simp [State.laneStep, hb]

/-! ## Offers that stage nothing -/

/-- Settles O55: a NO_SPACE report, the wait for a half, or the way back to the lane step, of which the first is followed
field by field and the others leave the end of the command nothing, or a bind request, to do. -/
theorem offerNotStaged : Obligations.OfferNotStaged := by
  intro tenant s
  refine ⟨?_, ?_, ?_, ?_⟩
  · intro f l hserve hhead hstep hb h0 hr refused charged hrefused hcharged
    subst hrefused hcharged
    obtain ⟨hsame, hother⟩ := noSpaceReport_pendingOf s tenant.toNat f.stream
    refine ⟨s.noSpaceReport tenant.toNat f.stream, ?_, conclude_keeps _, noSpaceReport_intake _ _ _,
      noSpaceReport_replies _ _ _, (noSpaceReport_tenant _ _ _ _).trans (if_pos rfl),
      fun n hn => (noSpaceReport_tenant _ _ _ _).trans (if_neg hn), hsame, hother, noSpaceReport_frame _ _ _ _ rfl⟩
    rw [exec_sectorOffer, offer_bound hserve hhead hstep hb, offerTo_refused h0 hr]
  · intro f l hq hserve hhead hstep hb hr hroom
    rw [exec_sectorOffer, offer_bound hserve hhead hstep hb, offerTo_roomless hr hroom]
    exact congrArg _ (conclude_quiet (hq.modHead _ _ fun _ => rfl))
  · intro f q hq hserve hhead hstep hset hlane
    subst hlane
    have hserved := serveHead_again hserve hhead hstep hset
    constructor
    · intro hb
      rw [laneStep_waiting (s := s.headAt tenant.toNat .queued) hb, headAt_headAt] at hserved
      have hquiet : ((s.modHead tenant.toNat Frame.again).serveHead tenant.toNat).isQuiet := by
        rw [hserved]
        exact hq.modHead _ _ fun _ => rfl
      rw [exec_sectorOffer, offer_notBound hserve hhead hstep (by simp [hb])]
      exact congrArg _ ((conclude_raiseHead_quiet (s := s.modHead tenant.toNat Frame.again) hq.1 hquiet).trans hserved)
    · intro hb
      rw [laneStep_unbound (s := s.headAt tenant.toNat .queued) hb, headAt_headAt] at hserved
      refine ⟨_, exec_sectorOffer _ _, ?_⟩
      rw [offer_notBound hserve hhead hstep (by simp [hb])]
      have hkeeps := conclude_raiseHead_keeps (s := s.modHead tenant.toNat Frame.again) hq.1 tenant.toNat
      rw [hserved] at hkeeps
      exact hkeeps
  · intro hq h
    rw [exec_sectorOffer, offer_skipped h, conclude_quiet hq]

end Sys2Proof.Machine

/-! ## Which frames leave when a half fills -/

namespace Sys2Proof.Machine

/-- Joining a die queue touches the dies, the lanes, the placement queue and the media pointers (R101, R104). -/
theorem joinDie_eq (s : State) (d : Nat) (e : DieEntry) :
    ∃ dies lanes placement pos sent rst, s.joinDie d e =
      { s with
        dies := dies, lanes := lanes, placement := placement, groupPos := pos, ordersSent := sent, mdlRst := rst } := by
  unfold State.joinDie
  dsimp only
  split
  · exact dispatch_eq _ d
  · exact ⟨_, _, _, _, _, _, rfl⟩

theorem joinDie_intake (s : State) (d : Nat) (e : DieEntry) : (s.joinDie d e).intake = s.intake := by
  obtain ⟨_, _, _, _, _, _, h⟩ := joinDie_eq s d e
  rw [h]

theorem scanTrigger_intake (s : State) : s.scanTrigger.intake = s.intake := by
  unfold State.scanTrigger
  split <;> rfl

theorem lowWaterCheck_intake (s : State) (g : Nat) : (s.lowWaterCheck g).intake = s.intake := by
  unfold State.lowWaterCheck
  dsimp only
  split
  · split
    · exact (scanTrigger_intake _).trans (post_intake _ _ _ _)
    · exact post_intake _ _ _ _
  · rfl

theorem leaveUnitWait_intake (s : State) (l : Nat) : (s.leaveUnitWait l).intake = s.intake := by
  unfold State.leaveUnitWait
  split <;> rfl

theorem joinUnitWait_intake (s : State) (l : Nat) : (s.joinUnitWait l).intake = s.intake := by
  unfold State.joinUnitWait
  split <;> rfl

theorem giveUnit_intake (s : State) (l u n : Nat) : (s.giveUnit l u n).intake = s.intake := by
  unfold State.giveUnit
  dsimp only
  split <;> rfl

theorem drawUnit_intake (s : State) (g l t x : Nat) : (s.drawUnit g l t x).intake = s.intake := by
  unfold State.drawUnit
  split
  · rfl
  · exact (lowWaterCheck_intake _ _).trans (giveUnit_intake _ _ _ _)

theorem dropEmptyFilling_intake (s : State) (l : Nat) : (s.dropEmptyFilling l).intake = s.intake := by
  unfold State.dropEmptyFilling
  split
  · split <;> rfl
  · rfl

/-- From s to q no frame has left but those of one stream with nothing staged, for which there was no space (R53). -/
def StagedStay (s q : State) : Prop :=
  q.intake = s.intake ∨ ∃ t x, q.intake = s.intake.filter (fun g => !g.unstagedOf t x)

/-- A head with something staged stays. -/
theorem StagedStay.headOf {s q : State} (k : StagedStay s q) {t : Nat} {g : Frame} (h : s.headOf t = some g)
    (hg : g.staged ≠ 0) : q.headOf t = some g := by
  rcases k with e | ⟨n, x, e⟩
  · rw [State.headOf, e]
    exact h
  · refine headOf_of_filter h ?_ e
    rw [Bool.not_eq_true', Bool.eq_false_iff]
    exact fun hp => hg (Frame.unstagedOf_iff.mp hp).2.2

theorem StagedStay.of_intake {s p q : State} (k : StagedStay p q) (h : p.intake = s.intake) : StagedStay s q := by
  unfold StagedStay at k ⊢
  rwa [h] at k

theorem noUnitFound_stagedStay (s : State) (l t x : Nat) : StagedStay s (s.noUnitFound l t x) := by
  unfold State.noUnitFound
  split
  · exact .inl rfl
  split
  · split
    · refine .inr ⟨t, x, (noSpaceReport_intake _ _ _).trans ?_⟩
      rw [joinUnitWait_intake, modLane_intake, dropEmptyFilling_intake]
    · exact .inl (joinUnitWait_intake _ _)
  · exact .inl (joinUnitWait_intake _ _)

theorem takeUnit_stagedStay (s : State) (l : Nat) : StagedStay s (s.takeUnit l) := by
  have hpools : ∀ t x, StagedStay s (match s.choosePool (s.tenant t).active.poolMask (s.askPolicy l t) with
      | some g => (s.drawUnit g l t x).leaveUnitWait l
      | none => s.noUnitFound l t x) := fun t x => by
    split
    · exact .inl ((leaveUnitWait_intake _ _).trans (drawUnit_intake _ _ _ _ _))
    · exact noUnitFound_stagedStay s l t x
  unfold State.takeUnit
  split
  · exact .inl rfl
  dsimp only
  split
  · split
    · exact .inl ((leaveUnitWait_intake _ _).trans (giveUnit_intake _ _ _ _))
    · exact hpools _ _
  · exact hpools _ _

/-! ## Writing a lane twice -/

theorem filter_insertRow {α : Type} (n : Nat) (v : α) (t : Table α) :
    (insertRow n v t).filter (fun row => row.1 ≠ n) = t.filter (fun row => row.1 ≠ n) := by
  induction t with
  | nil => simp [insertRow]
  | cons row rest ih =>
    unfold insertRow
    split
    · simp
    · rw [List.filter_cons, List.filter_cons, ih]

theorem putRow_putRow {α : Type} [DecidableEq α] (d : α) (t : Table α) (n : Nat) (v w : α) :
    putRow d (putRow d t n v) n w = putRow d t n w := by
  have hrest : (putRow d t n v).filter (fun row => row.1 ≠ n) = t.filter (fun row => row.1 ≠ n) := by
    unfold putRow
    dsimp only
    split
    · rw [List.filter_filter]
      simp
    · rw [filter_insertRow, List.filter_filter]
      simp
  unfold putRow at hrest ⊢
  dsimp only at hrest ⊢
  rw [hrest]

theorem setLane_setLane (s : State) (l : Nat) (v w : Lane) : (s.setLane l v).setLane l w = s.setLane l w :=
  congrArg (fun t => ({ s with lanes := t } : State)) (putRow_putRow _ _ _ _ _)

theorem setLane_modLane (s : State) (l : Nat) (v : Lane) (f : Lane → Lane) :
    (s.setLane l v).modLane l f = s.setLane l (f v) := by
  unfold State.modLane
  rw [setLane_setLane, setLane_lane, if_pos rfl]

theorem setLane_modHalf (s : State) (l : Nat) (v : Lane) (h : HalfId) (f : Half → Half) :
    (s.setLane l v).modHalf l h f = s.setLane l (v.setHalf h (f (v.half h))) :=
  setLane_modLane s l v _

theorem setLane_half (s : State) (l : Nat) (v : Lane) (h : HalfId) : (s.setLane l v).half l h = v.half h := by
  unfold State.half
  rw [setLane_lane, if_pos rfl]

theorem HalfId.other_ne (h : HalfId) : h.other ≠ h := by cases h <;> decide

theorem setHalf_half_other (v : Lane) (h : HalfId) (w : Half) : (v.setHalf h w).half h.other = v.half h.other := by
  rw [half_setHalf, if_neg h.other_ne]

theorem setHalf_setHalf (v : Lane) (h : HalfId) (w x : Half) : (v.setHalf h w).setHalf h x = v.setHalf h x := by
  cases h <;> rfl

/-! ## A half that becomes FULL -/

/-- A lane whose half h has become FULL while it has no current unit: the first-full mark names the half that waited before
(R70). -/
def Lane.waitFull (v : Lane) (h : HalfId) : Lane :=
  { v.setHalf h { v.half h with state := .full } with
    firstFull := if (v.half h.other).waitsForUnit then some h.other else v.firstFull }

/-- A lane whose half h has become FULL and is assigned stripe n of its current unit u (R70, R71). -/
def Lane.assignFull (v : Lane) (h : HalfId) (u n : Nat) : Lane :=
  { v.setHalf h { v.half h with state := .full, assigned := some (u, n), sealMark := decide (n = 255) } with
    current := if n = 255 then none else some (u, n + 1), firstFull := none }

/-- Half h of lane l is assigned stripe n of unit u and joins its die queue (R70). -/
def State.assignFull (s : State) (l : Nat) (h : HalfId) (u n : Nat) : State :=
  ((s.setLane l ((s.lane l).assignFull h u n)).setUnit u { s.unit u with nextStripe := n + 1 }).joinDie (u % 64) (.half l h)

theorem refillOther_bound {s : State} {l : Nat} (hb : (s.lane l).isBound = true) (h : HalfId) :
    s.refillOther l h =
      if (s.half l h.other).state = .empty then s.modHalf l h.other (fun v => { v with state := .filling }) else s := by
  simp [State.refillOther, hb]

/-- A half that becomes FULL on a lane without a current unit waits (R70). -/
theorem halfFull_waits {s : State} {l : Nat} (hc : (s.lane l).current = none) (h : HalfId) :
    s.halfFull l h false = (s.setLane l ((s.lane l).waitFull h)).refillOther l h := by
  have hcurrent : ((s.modHalf l h (fun v => { v with state := .full })).lane l).current = none := by
    rw [modHalf_lane, if_pos rfl, ← hc]
    cases h <;> rfl
  have hother : (s.modHalf l h (fun v => { v with state := .full })).half l h.other = s.half l h.other := by
    rw [modHalf_half, if_neg fun e => h.other_ne e.2]
  have hmark : (if (s.half l h.other).waitsForUnit then
        (s.modHalf l h (fun v => { v with state := .full })).modLane l (fun v => { v with firstFull := some h.other })
      else s.modHalf l h (fun v => { v with state := .full })) = s.setLane l ((s.lane l).waitFull h) := by
    show (if _ then (s.setLane l _).modLane l _ else s.setLane l _) = _
    rw [setLane_modLane, ← apply_ite (s.setLane l)]
    refine congrArg (s.setLane l) ?_
    unfold Lane.waitFull State.half
    split <;> cases h <;> rfl
  unfold State.halfFull
  simp only [hcurrent, hother, hmark, Bool.false_eq_true, if_false]

/-- A half that becomes FULL on a lane with a current unit is assigned, and at stripe 255 the lane takes a unit (R70, R71). -/
theorem halfFull_assigned {s : State} {l u n : Nat} (hc : (s.lane l).current = some (u, n)) (h : HalfId) :
    s.halfFull l h false =
      if n = 255 ∧ s.device ≠ .holding then ((s.assignFull l h u n).refillOther l h).takeUnit l
      else (s.assignFull l h u n).refillOther l h := by
  have hcurrent : ((s.modHalf l h (fun v => { v with state := .full })).lane l).current = some (u, n) := by
    rw [modHalf_lane, if_pos rfl, ← hc]
    cases h <;> rfl
  have hassign : (s.modHalf l h (fun v => { v with state := .full })).assignHalf l h u n = s.assignFull l h u n := by
    have hlane : ((s.modHalf l h (fun v => { v with state := .full })).modHalf l h
          (fun v => { v with assigned := some (u, n), sealMark := decide (n = 255) })).modLane l
          (fun v => { v with current := if n = 255 then none else some (u, n + 1), firstFull := none }) =
        s.setLane l ((s.lane l).assignFull h u n) := by
      refine (congrArg (State.modLane · l _) (setLane_modHalf s l _ h _)).trans ((setLane_modLane s l _ _).trans ?_)
      rw [setHalf_setHalf]
      refine congrArg (s.setLane l) ?_
      cases h <;> rfl
    unfold State.assignFull
    rw [← hlane]
    by_cases hn : n = 255 <;> simp [State.assignHalf, hn, State.modUnit, dieOf]
  have hdevice : ((s.assignFull l h u n).refillOther l h).device = s.device := by
    have c := closed_device s.device
    exact c.refillOther (c.joinDie (c.setUnit (UnitMove.stripe _ _) (c.setLane (by cases h <;> rfl) rfl)))
  unfold State.halfFull
  simp only [hcurrent, hassign, hdevice, Bool.false_eq_true, if_false, Bool.not_false, Bool.and_true, Bool.and_eq_true,
    decide_eq_true_eq, ne_eq, Config.lastStripe]

theorem refillOther_intake (s : State) (l : Nat) (h : HalfId) : (s.refillOther l h).intake = s.intake := by
  unfold State.refillOther
  split <;> rfl

theorem halfFull_stagedStay (s : State) (l : Nat) (h : HalfId) : StagedStay s (s.halfFull l h false) := by
  cases hc : (s.lane l).current with
  | none =>
    rw [halfFull_waits hc]
    exact .inl (refillOther_intake _ _ _)
  | some e =>
    obtain ⟨u, n⟩ := e
    have hassign : ((s.assignFull l h u n).refillOther l h).intake = s.intake :=
      (refillOther_intake _ _ _).trans (joinDie_intake _ _ _)
    rw [halfFull_assigned hc]
    exact ite_keeps ((takeUnit_stagedStay _ l).of_intake hassign) (.inl hassign)

/-! ## A sector in its slot -/

/-- A half with the next sector of f in its next slot (R68). -/
def Half.withSector (v : Half) (t : Nat) (f : Frame) : Half :=
  { v with
    state := .filling
    slots := v.slots ++ [.real t f.writeTag f.staged (f.sectors.getD f.staged 0#32768)] }

/-- One more sector of f, the head of t's queue, counts as staged, and lane l is the most recently staged (R61, R68). -/
def State.nextSector (s : State) (t : Nat) (f : Frame) (l : Nat) : State :=
  (s.touchLane l).modHead t (fun g => { g with staged := f.staged + 1 })

/-- That sector is in the next slot of half h of lane l (R68). -/
def State.putSector (s : State) (t : Nat) (f : Frame) (l : Nat) (h : HalfId) : State :=
  (s.nextSector t f l).setLane l ((s.lane l).setHalf h ((s.half l h).withSector t f))

/-- And if it is the 16th, the half is FULL (R70). -/
def State.fillSlot (s : State) (t : Nat) (f : Frame) (l : Nat) (h : HalfId) : State :=
  if (s.half l h).slots.length + 1 = Config.stripeSlots then (s.putSector t f l h).halfFull l h false
  else s.putSector t f l h

theorem putSector_lane (s : State) (t : Nat) (f : Frame) (l : Nat) (h : HalfId) :
    (s.putSector t f l h).lane l = (s.lane l).setHalf h ((s.half l h).withSector t f) :=
  (setLane_lane _ _ _ _).trans (if_pos rfl)

/-- Staging a sector is putting it in its slot; the last one completes the frame (R47, R68). -/
theorem stage_eq (s : State) (t : Nat) (f : Frame) (l : Nat) (h : HalfId) :
    s.stage t f l h =
      if f.staged + 1 = f.sectors.length then (s.fillSlot t f l h).acceptHead t else s.fillSlot t f l h := by
  have hlength : ((s.putSector t f l h).half l h).slots.length = (s.half l h).slots.length + 1 := by
    rw [State.half, putSector_lane, half_setHalf, if_pos rfl]
    simp [Half.withSector]
  unfold State.fillSlot
  rw [← hlength]
  rfl

/-- An offer that is staged. -/
theorem exec_sectorOffer_staged {tenant : BitVec 10} {s : State} {f : Frame} {l : Nat} {h : HalfId}
    (hserve : s.servesHead tenant.toNat = true) (hhead : s.headOf tenant.toNat = some f) (hstep : f.step = .staging)
    (hb : (s.stream tenant.toNat f.stream).binding = .bound l)
    (hr : f.staged ≠ 0 ∨ s.refusesFirst tenant.toNat l = false) (hroom : (s.lane l).room = some h) :
    exec (.sectorOffer tenant) s = .next (s.stage tenant.toNat f l h).conclude := by
  rw [exec_sectorOffer, offer_bound hserve hhead hstep hb, offerTo_staged hr hroom]

theorem fillSlot_headOf {s : State} {t : Nat} {f : Frame} (hhead : s.headOf t = some f) (l : Nat) (h : HalfId) :
    (s.fillSlot t f l h).headOf t = some { f with staged := f.staged + 1 } := by
  have hput : (s.putSector t f l h).headOf t = some { f with staged := f.staged + 1 } :=
    headOf_modHead (s := s.touchLane l) (g := fun g => { g with staged := f.staged + 1 }) hhead rfl
  exact ite_keeps (P := fun q => q.headOf t = _) ((halfFull_stagedStay _ l h).headOf hput (Nat.succ_ne_zero _)) hput

theorem fillSlot_keeps (s : State) (t : Nat) (f : Frame) (l : Nat) (h : HalfId) : WorkKeeps s (s.fillSlot t f l h) := by
  have c := (closed_workKeeps s).toClosed
  have hput : WorkKeeps s (s.putSector t f l h) :=
    c.setLane (by cases h <;> rfl) (c.modHead (fun _ => ⟨rfl, rfl, rfl, rfl, rfl, rfl⟩) (c.recency (.refl s)))
  exact ite_keeps (c.halfFull hput) hput

/-! ## A frame that is complete -/

/-- What the completion of a frame does (R47). -/
theorem acceptHead_eq {s : State} {t : Nat} {f : Frame} (h : s.headOf t = some f) :
    s.acceptHead t =
      (((((s.modTenantCounters t (fun c => { c with accepted := bump c.accepted f.sectors.length })).modStream t f.stream
        (fun c => { c with accepted := bump c.accepted f.sectors.length })).reply f.tag .accepted
          (.write f.stream f.sectors.length)).dropHead t).raiseHead t) := by
  unfold State.acceptHead
  rw [h]

@[simp] theorem raiseHead_tenant (s : State) (t n : Nat) : (s.raiseHead t).tenant n = s.tenant n := rfl

@[simp] theorem raiseHead_stream (s : State) (t n x : Nat) : (s.raiseHead t).stream n x = s.stream n x := rfl

/-- The slot of the frame is free (R5, R47). -/
theorem acceptHead_intake_length {s : State} {t : Nat} {f : Frame} (h : s.headOf t = some f) :
    (s.acceptHead t).intake.length + 1 = s.intake.length := by
  have hmem : f ∈ s.intake := List.mem_of_find?_eq_some h
  have herase : (s.intake.eraseP (fun g => g.tenant = t)).length = s.intake.length - 1 :=
    List.length_eraseP_of_mem hmem (by simpa using tenant_of_headOf h)
  have hpos : 0 < s.intake.length := List.length_pos_of_mem hmem
  rw [acceptHead_eq h]
  show (s.intake.eraseP (fun g => g.tenant = t)).length + 1 = _
  omega

/-- The counts and the reply of a frame that is complete (R47). -/
theorem acceptHead_counts {s : State} {t : Nat} {f : Frame} (h : s.headOf t = some f) :
    (s.acceptHead t).replies = s.replies ++ [⟨f.tag, .accepted, .write f.stream f.sectors.length⟩]
      ∧ ((s.acceptHead t).tenant t).counters.accepted = bump (s.tenant t).counters.accepted f.sectors.length
      ∧ ((s.acceptHead t).stream t f.stream).accepted = bump (s.stream t f.stream).accepted f.sectors.length := by
  rw [acceptHead_eq h]
  refine ⟨rfl, ?_, ?_⟩
  · simp [modTenantCounters_tenant]
  · simp [modStream_stream]

/-- What the completion of a frame leaves alone. -/
theorem acceptHead_frame {s : State} {t : Nat} {f : Frame} (h : s.headOf t = some f) :
    (s.acceptHead t).device = s.device ∧ (s.acceptHead t).settings = s.settings ∧ (s.acceptHead t).credit = s.credit
      ∧ (s.acceptHead t).flushes = s.flushes ∧ (s.acceptHead t).units = s.units := by
  rw [acceptHead_eq h]
  simp [State.raiseHead]

/-- Settles O54: whatever the half does, the frame is still the head and its counts are as they were; it is then completed,
and the end of the command keeps what that has done. -/
theorem lastSectorCompletesTheFrame : Obligations.LastSectorCompletesTheFrame := by
  intro tenant s f l h hserve hhead hstep hb hr hroom hlast
  have hrunning := running_of_servesHead hserve
  have hexec : exec (.sectorOffer tenant) s = .next ((s.fillSlot tenant.toNat f l h).acceptHead tenant.toNat).conclude := by
    rw [exec_sectorOffer_staged hserve hhead hstep hb hr hroom, stage_eq, if_pos hlast]
  have hfilled := fillSlot_headOf hhead l h
  have kq := fillSlot_keeps s tenant.toNat f l h
  generalize s.fillSlot tenant.toNat f l h = q at hexec hfilled kq
  have hlength := acceptHead_intake_length hfilled
  obtain ⟨hreplies, htenant, hstream⟩ := acceptHead_counts hfilled
  obtain ⟨hdevice, hsettings, hcredit, hflushes, hunits⟩ := acceptHead_frame hfilled
  have kt := conclude_keeps (q.acceptHead tenant.toNat)
  have hstill : (q.acceptHead tenant.toNat).device = .running :=
    hdevice.trans ((kq.device (by simp [hrunning])).1.trans hrunning)
  refine ⟨_, hexec, ?_, ?_, ?_, ?_, ?_, ?_, ?_, ?_, ?_, fun u => ⟨?_, ?_⟩⟩
  · refine kt.replies.subset ?_
    rw [hreplies]
    exact List.mem_append_right _ (List.mem_singleton_self _)
  · refine kq.replies.trans (List.IsPrefix.trans ?_ kt.replies)
    rw [hreplies]
    exact List.prefix_append _ _
  · have hfewer := kq.fewer
    have hfewer' := kt.fewer
    omega
  · rw [kt.accepted, htenant, kq.accepted]
    rfl
  · rw [kt.streamAccepted, hstream, kq.streamAccepted]
    rfl
  · exact (kt.device (by simp [hstill])).1.trans hstill
  · exact kt.settings.trans (hsettings.trans kq.settings)
  · exact kt.credit.trans (hcredit.trans kq.credit)
  · exact kt.flushes.trans (hflushes.trans kq.flushes)
  · rw [kt.valid, unit_of_units hunits, kq.valid]
  · rw [kt.programmed, unit_of_units hunits, kq.programmed]

end Sys2Proof.Machine

/-! ## What leaves a quiet state quiet -/

namespace Sys2Proof.Machine

theorem all_eq_tableSum {α : Type} (p : α → Bool) (t : Table α) :
    t.all (fun row => p row.2) = decide (tableSum (fun v => (!p v).toNat) t = 0) := by
  rw [← countP_eq_tableSum, Bool.eq_iff_iff, decide_eq_true_iff, List.countP_eq_zero, List.all_eq_true]
  simp

/-- A drain's completion reads of the lanes and units no more than their views (R173). -/
theorem drained_congr {s t : State} (hs : s.Tabled) (ht : t.Tabled) (htenants : t.tenants = s.tenants)
    (hlanes : ∀ l, (t.lane l).view = (s.lane l).view) (hunits : ∀ u, (t.unit u).view = (s.unit u).view) (n : Nat) :
    t.drained n = s.drained n := by
  have hbelongs : ∀ l, (t.lane l).belongsTo n = (s.lane l).belongsTo n := fun l => by
    unfold Lane.belongsTo
    rw [(Lane.view_eq.mp (hlanes l)).2]
  have hheld : ∀ u, (t.unit u).heldOpenBy n = (s.unit u).heldOpenBy n := fun u => by
    obtain ⟨hstate, howner⟩ := UnitRec.view_eq.mp (hunits u)
    unfold UnitRec.heldOpenBy UnitRec.isOpen
    rw [hstate, howner]
  unfold State.drained
  rw [tenant_of_tenants htenants, all_eq_tableSum (fun v : Lane => !v.belongsTo n),
    all_eq_tableSum (fun v : Lane => !v.belongsTo n), all_eq_tableSum (fun r : UnitRec => !r.heldOpenBy n),
    all_eq_tableSum (fun r : UnitRec => !r.heldOpenBy n),
    tableSum_congr (d := Lane.reset) rfl hs.lanes ht.lanes fun l => congrArg (fun b => (!!b).toNat) (hbelongs l),
    tableSum_congr (d := UnitRec.reset) rfl hs.units ht.units fun u => congrArg (fun b => (!!b).toNat) (hheld u)]

/-- Halves, orders, stripes and die queues may change outside HOLDING with nothing left to be done. -/
theorem State.isQuiet.of_core {s t : State} (h : s.isQuiet) (hs : s.Tabled) (hd : s.device ≠ .holding) (k : SameCore s t)
    (hwork : t.work = s.work) (htenants : t.tenants = s.tenants) (hintake : t.intake = s.intake) : t.isQuiet := by
  obtain ⟨hempty, hclose, -, hdrained⟩ := h
  refine ⟨hwork.trans hempty, ?_, fun hh => hd (k.device.symm.trans hh.1), fun n hn => ?_⟩
  · rw [closeDue_eq_none] at hclose ⊢
    refine .inr fun n hf hq => hclose.resolve_left hd n ?_ ?_
    · rwa [tenant_of_tenants htenants] at hf
    · rwa [State.queueOf, hintake] at hq
  · rw [drained_congr hs (k.tabled hs) htenants k.lanes k.units]
    exact hdrained n (htenants ▸ hn)

/-! ## A half on its die queue -/

theorem half_of_lanes {s t : State} (h : t.lanes = s.lanes) (l : Nat) (k : HalfId) : t.half l k = s.half l k :=
  congrArg (fun v => v.half k) (lane_of_lanes h l)

/-- Sending the order of a half makes that half PROGRAMMING and touches no other (R104). -/
theorem dispatch_lanes {s : State} {d l : Nat} {h : HalfId} {rest : List DieEntry}
    (hq : (s.die d).queue = .half l h :: rest) :
    (s.dispatch d).lanes = (s.modHalf l h (fun v => { v with state := .programming })).lanes := by
  unfold State.dispatch State.reserve
  rw [hq]
  dsimp only
  split <;> rfl

theorem joinDie_half_other (s : State) (d l : Nat) (h : HalfId) :
    (s.joinDie d (.half l h)).half l h.other = s.half l h.other := by
  unfold State.joinDie
  dsimp only
  split
  · rename_i hnil
    simp only [Bool.and_eq_true, decide_eq_true_eq] at hnil
    have hqueue : ((s.modDie d (fun v => { v with queue := (s.die d).queue ++ [.half l h] })).die d).queue = [.half l h] := by
      rw [modDie_die, if_pos rfl, hnil.1]
      rfl
    rw [half_of_lanes (dispatch_lanes hqueue), modHalf_half, if_neg fun e => h.other_ne e.2]
    rfl
  · rfl

theorem refillOther_eq (s : State) (l : Nat) (h : HalfId) : ∃ lanes, s.refillOther l h = { s with lanes := lanes } := by
  unfold State.refillOther
  split
  · exact ⟨_, rfl⟩
  · exact ⟨s.lanes, rfl⟩

/-! ## A half that fills with nothing left to be done -/

theorem Lane.setHalf_view (v : Lane) (h : HalfId) (w : Half) : (v.setHalf h w).view = v.view := by
  cases h <;> rfl

theorem Lane.waitFull_view (v : Lane) (h : HalfId) : (v.waitFull h).view = v.view :=
  v.setHalf_view h _

theorem Lane.assignFull_view (v : Lane) (h : HalfId) (u n : Nat) : (v.assignFull h u n).view = v.view :=
  v.setHalf_view h _

theorem Half.waitsForUnit_iff (v : Half) : v.waitsForUnit = true ↔ v.state = .full ∧ v.assigned = none := by
  simp [Half.waitsForUnit]

/-- The lane after half h, put as w, has become FULL and waits, and its other half is put as o. -/
theorem Lane.waitFull_setHalf (v : Lane) (h : HalfId) (w o : Half) :
    ((v.setHalf h w).waitFull h).setHalf h.other o =
      { (v.setHalf h { w with state := .full }).setHalf h.other o with
        firstFull :=
          if (v.half h.other).state = .full ∧ (v.half h.other).assigned = none then some h.other else v.firstFull } := by
  simp only [← Half.waitsForUnit_iff]
  cases h <;> rfl

/-- The lane after half h, put as w, has become FULL and is assigned. -/
theorem Lane.assignFull_setHalf (v : Lane) (h : HalfId) (w : Half) (u n : Nat) :
    (v.setHalf h w).assignFull h u n =
      { v.setHalf h { w with state := .full, assigned := some (u, n), sealMark := decide (n = 255) } with
        current := if n = 255 then none else some (u, n + 1), firstFull := none } := by
  cases h <;> rfl

theorem isBound_of_room {v : Lane} {h : HalfId} (hr : v.room = some h) : v.isBound = true := by
  by_contra hb
  unfold Lane.room at hr
  simp [Bool.eq_false_iff.mpr hb] at hr

theorem assignFull_core (s : State) (l : Nat) (h : HalfId) (u n : Nat) : SameCore s (s.assignFull l h u n) :=
  have hlane : SameCore s (s.setLane l ((s.lane l).assignFull h u n)) := .setLane ((s.lane l).assignFull_view h u n)
  (hlane.modUnit (u := u) (f := fun r => { r with nextStripe := n + 1 })).joinDie

/-- What a half that becomes FULL leaves alone while its lane takes no unit. -/
theorem assignFull_frame (s : State) (l : Nat) (h : HalfId) (u n : Nat) :
    ((s.assignFull l h u n).refillOther l h).work = s.work ∧ ((s.assignFull l h u n).refillOther l h).tenants = s.tenants
      ∧ ((s.assignFull l h u n).refillOther l h).intake = s.intake := by
  obtain ⟨_, e⟩ := refillOther_eq (s.assignFull l h u n) l h
  obtain ⟨_, _, _, _, _, _, e'⟩ := joinDie_eq
    ((s.setLane l ((s.lane l).assignFull h u n)).setUnit u { s.unit u with nextStripe := n + 1 }) (u % 64) (.half l h)
  rw [e, State.assignFull, e']
  exact ⟨rfl, rfl, rfl⟩

section
variable {s : State} {l : Nat} {h : HalfId} (hbound : (s.lane l).isBound = true)
include hbound

/-- The two halves of a lane after one has become FULL and waits (R70). -/
theorem waitFull_refilled :
    (s.setLane l ((s.lane l).waitFull h)).refillOther l h =
      s.setLane l (((s.lane l).waitFull h).setHalf h.other
        (if (s.half l h.other).state = .empty then { s.half l h.other with state := .filling } else s.half l h.other)) := by
  have hb : ((s.setLane l ((s.lane l).waitFull h)).lane l).isBound = true := by
    rw [setLane_lane, if_pos rfl, Lane.isBound_congr ((s.lane l).waitFull_view h), hbound]
  have hother : ((s.lane l).waitFull h).half h.other = s.half l h.other := by
    unfold Lane.waitFull State.half
    cases h <;> rfl
  rw [refillOther_bound hb, setLane_half, setLane_modHalf, hother]
  split
  · rfl
  · rw [← hother]
    refine congrArg (s.setLane l) ?_
    cases h <;> rfl

/-- The other half of a lane after one has become FULL and is assigned (R70). -/
theorem assignFull_refilled (u n : Nat) :
    (s.assignFull l h u n).refillOther l h =
      if (s.half l h.other).state = .empty then
        (s.assignFull l h u n).modHalf l h.other (fun v => { v with state := .filling })
      else s.assignFull l h u n := by
  have hb : ((s.assignFull l h u n).lane l).isBound = true := by
    rw [Lane.isBound_congr ((assignFull_core s l h u n).lanes l), hbound]
  have hother : (s.assignFull l h u n).half l h.other = s.half l h.other := by
    unfold State.assignFull
    rw [joinDie_half_other]
    refine (setLane_half s l _ h.other).trans ?_
    unfold Lane.assignFull State.half
    cases h <;> rfl
  rw [refillOther_bound hb, hother]

end

/-! ## The next sector of a frame -/

theorem nextSector_quiet {s : State} (h : s.isQuiet) (t : Nat) (f : Frame) (l : Nat) : (s.nextSector t f l).isQuiet :=
  State.isQuiet.modHead (s := s.touchLane l) h t _ fun _ => rfl

section
variable {s : State} {t l : Nat} {f : Frame} {h : HalfId}

theorem putSector_half_other : (s.putSector t f l h).half l h.other = s.half l h.other :=
  (setLane_half _ _ _ _).trans (setHalf_half_other _ _ _)

theorem putSector_bound (hroom : (s.lane l).room = some h) : ((s.putSector t f l h).lane l).isBound = true := by
  rw [putSector_lane, Lane.isBound_congr ((s.lane l).setHalf_view h _), isBound_of_room hroom]

theorem putSector_current : ((s.putSector t f l h).lane l).current = (s.lane l).current := by
  rw [putSector_lane]
  cases h <;> rfl

/-- The 16th sector on a lane without a current unit (R70). -/
theorem fillSlot_waits (hroom : (s.lane l).room = some h) (hfull : (s.half l h).slots.length + 1 = 16)
    (hc : (s.lane l).current = none) :
    s.fillSlot t f l h = (s.nextSector t f l).setLane l
      ((((s.lane l).setHalf h ((s.half l h).withSector t f)).waitFull h).setHalf h.other
        (if (s.half l h.other).state = .empty then { s.half l h.other with state := .filling } else s.half l h.other)) := by
  refine (if_pos hfull).trans ?_
  rw [halfFull_waits (putSector_current.trans hc), waitFull_refilled (putSector_bound hroom), putSector_half_other,
    putSector_lane]
  exact setLane_setLane _ _ _ _

/-- The 16th sector on a lane with a current unit (R70, R71). -/
theorem fillSlot_assigned (hfull : (s.half l h).slots.length + 1 = 16)
    (hd : s.device = .running) {u n : Nat} (hc : (s.lane l).current = some (u, n)) :
    s.fillSlot t f l h =
      if n = 255 then (((s.putSector t f l h).assignFull l h u n).refillOther l h).takeUnit l
      else ((s.putSector t f l h).assignFull l h u n).refillOther l h := by
  have hmoving : (s.putSector t f l h).device ≠ .holding := by
    rw [show (s.putSector t f l h).device = s.device from rfl, hd]
    decide
  refine (if_pos hfull).trans ?_
  rw [halfFull_assigned (putSector_current.trans hc)]
  simp [hmoving]

theorem putSector_assignFull (u n : Nat) :
    (s.putSector t f l h).assignFull l h u n =
      (((s.nextSector t f l).setLane l (((s.lane l).setHalf h ((s.half l h).withSector t f)).assignFull h u n)).setUnit u
        { s.unit u with nextStripe := n + 1 }).joinDie (u % 64) (.half l h) := by
  unfold State.assignFull
  rw [putSector_lane, show s.putSector t f l h = (s.nextSector t f l).setLane l _ from rfl, setLane_setLane]
  rfl

end

/-- Settles O52: the sector goes into its slot, the half that fills waits or is assigned, and none of this leaves the end of
the command anything to do; what the lane takes at stripe 255 is left to it. -/
theorem sectorIsStaged : Obligations.SectorIsStaged := by
  intro tenant s f l h hs hquiet hserve hhead hstep hb hr hroom hmore half other q hhalf hother hq
  have hd := running_of_servesHead hserve
  have hmoving : (s.nextSector tenant.toNat f l).device ≠ .holding := by
    rw [show (s.nextSector tenant.toNat f l).device = s.device from rfl, hd]
    decide
  have htabled : (s.nextSector tenant.toNat f l).Tabled := ⟨hs.tenants, hs.lanes, hs.units⟩
  have hnext := nextSector_quiet hquiet tenant.toNat f l
  have hput : SameCore (s.nextSector tenant.toNat f l) (s.putSector tenant.toNat f l h) := .setLane (Lane.setHalf_view _ h _)
  rw [exec_sectorOffer_staged hserve hhead hstep hb hr hroom, stage_eq, if_neg hmore]
  subst hhalf hother hq
  refine ⟨fun hbelow => ?_, fun hfull => ⟨fun hc => ?_, fun u n j k hc hj hk => ?_⟩⟩
  · have hfill : s.fillSlot tenant.toNat f l h = s.putSector tenant.toNat f l h := if_neg hbelow
    rw [hfill, conclude_quiet (hnext.of_core htabled hmoving hput rfl rfl rfl)]
    rfl
  · have hwait : SameCore (s.nextSector tenant.toNat f l) (s.fillSlot tenant.toNat f l h) := by
      rw [fillSlot_waits hroom hfull hc]
      exact .setLane ((Lane.setHalf_view _ _ _).trans ((Lane.waitFull_view _ _).trans (Lane.setHalf_view _ _ _)))
    rw [conclude_quiet (hnext.of_core htabled hmoving hwait ?_ ?_ ?_), fillSlot_waits hroom hfull hc, Lane.waitFull_setHalf]
    · rfl
    all_goals
      rw [fillSlot_waits hroom hfull hc]
      rfl
  · have hassign : (s.putSector tenant.toNat f l h).assignFull l h u n = j := by
      rw [hj, putSector_assignFull, Lane.assignFull_setHalf]
      rfl
    have hrefill : ((s.putSector tenant.toNat f l h).assignFull l h u n).refillOther l h = k := by
      rw [assignFull_refilled (putSector_bound hroom), putSector_half_other, hassign, hk]
    have hfill := fillSlot_assigned (t := tenant.toNat) (f := f) hfull hd hc
    rw [hrefill] at hfill
    rw [hfill]
    refine ⟨fun hn => ?_, fun hn => ?_⟩
    · obtain ⟨hwork, htenants, hintake⟩ := assignFull_frame (s.putSector tenant.toNat f l h) l h u n
      have hcore := (hput.trans (assignFull_core _ l h u n)).refillOther (l := l) (k := h)
      rw [hrefill] at hwork htenants hintake hcore
      rw [if_neg hn, conclude_quiet (hnext.of_core htabled hmoving hcore hwork htenants hintake)]
    · rw [if_pos hn]
      exact ⟨rfl, conclude_keeps _⟩

end Sys2Proof.Machine
